-- ==== Sys2Proof/Word.lean ====
section
/-! DEFINITION. The value types of spec/00_scope.md rules R5 and R6: bytes, 16-bit words, byte sequences, and the
abstract duration of rule R14. -/

namespace Sys2Proof

/-- A `u8` (R5). -/
abbrev Byte := BitVec 8

/-- A `u16` (R5). -/
abbrev Word := BitVec 16

/-- A byte sequence (R6). -/
abbrev Bytes := List Byte

/-- A duration of `num / den` seconds. The source gives a duration neither unit nor resolution (R14, decision D4), so it
is held as an exact fraction: `0/d` is the zero duration, `n/0` the infinite one. No rule computes with a duration.
DESIGN CHOICE (log 9), safe: two fractions of equal value are different data, and nothing compares durations. -/
structure Duration where
  num : Nat
  den : Nat
deriving DecidableEq, Repr, Inhabited

end Sys2Proof
end

