-- ==== Sys2Proof/Config.lean ====
section
/-! DEFINITION. The parameters of the block (spec/00_scope.md rule R4): the constants the source fixes, the OPEN ones as
constants without a body, and the free values (the environment's choices where no script gives them, and ERRINFO after
a success). -/

namespace Sys2Proof

/-! ## Constants the source fixes (R4) -/

/-- `CRC_POLY`. -/
def Config.crcPoly : Word := 0x1021
/-- `CRC_INIT`. -/
def Config.crcInit : Word := 0x0000
/-- `HDR_MAGIC`, first byte. -/
def Config.hdrMagic0 : Byte := 0xAB
/-- `HDR_MAGIC`, second byte. -/
def Config.hdrMagic1 : Byte := 0xCD
/-- `HDR_RSVD`. -/
def Config.hdrRsvd : Byte := 0x00
/-- `FTR_MAGIC`, first byte. -/
def Config.ftrMagic0 : Byte := 0xDC
/-- `FTR_MAGIC`, second byte. -/
def Config.ftrMagic1 : Byte := 0xBA
/-- `MAX_BODY`. -/
def Config.maxBody : Nat := 255
/-- The largest `data` of a WRITE_BLOCK (R70, R146): 255 less the 12 bytes before it. -/
def Config.maxWriteData : Nat := 243
/-- `HANDSHAKE_TRIES`. -/
def Config.handshakeTries : Nat := 5
/-- `FW_OFFSET`. -/
def Config.fwOffset : Nat := 4
/-- `FW_MAXLEN`. -/
def Config.fwMaxLen : Nat := 18
/-- `FW_PRINT_LO`. -/
def Config.fwPrintLo : Byte := 0x20
/-- `FW_PRINT_HI`. -/
def Config.fwPrintHi : Byte := 0x7E
/-- `WR_FLAG`. -/
def Config.wrFlag : Byte := 0x01
/-- The inner length of the READ command body (R69). -/
def Config.rdInnerLen : Byte := 0x08
/-- `RD_REPLY_SKIP`. -/
def Config.rdReplySkip : Nat := 8
/-- `TIMEOUT_NOMINAL`, 0.5 s. -/
def Config.timeoutNominal : Duration := { num := 1, den := 2 }

/-! ## OPEN parameters (R4, decision D6)

Each is a constant with no body, so every theorem holds whatever its value is. -/

/-- `KEY[0..15]` (R13). -/
opaque Config.key : Vector Byte 16
/-- `len(HELLO_BODY)`, at most 255. -/
opaque Config.helloLen : Byte
/-- Where the bytes of `HELLO_BODY` stand; only the first `helloLen` are used. -/
opaque Config.helloBytes : Vector Byte 255
/-- `OPC_READ`. -/
opaque Config.opcRead : Vector Byte 2
/-- `OPC_WRITE`. -/
opaque Config.opcWrite : Vector Byte 2
/-- `RD_FLAG`. -/
opaque Config.rdFlag : Byte
/-- `TRAILER`. -/
opaque Config.trailer : Vector Byte 4
/-- `ACK_WRITE`. -/
opaque Config.ackWrite : Byte
/-- `len(RESET_BODY)`, at most 255. -/
opaque Config.resetLen : Byte
/-- Where the bytes of `RESET_BODY` stand; only the first `resetLen` are used. -/
opaque Config.resetBytes : Vector Byte 255

/-- The OPEN parameters as one record. The shared operations take it as an argument, as R4 says; `exec` hands them
`Config.params`. The tests hand them the keys and candidate constants of spec/95_test_vectors.md. -/
structure Params where
  key       : Vector Byte 16
  helloBody : Bytes
  opcRead   : Vector Byte 2
  opcWrite  : Vector Byte 2
  rdFlag    : Byte
  trailer   : Vector Byte 4
  ackWrite  : Byte
  resetBody : Bytes
deriving DecidableEq, Repr

/-- The two constant bodies fit a frame (R4: "byte sequence, length <= 255"). -/
abbrev Params.wf (p : Params) : Prop :=
  p.helloBody.length ≤ Config.maxBody ∧ p.resetBody.length ≤ Config.maxBody

/-- The parameters of this block, all of them OPEN. -/
def Config.params : Params where
  key       := Config.key
  helloBody := Config.helloBytes.toList.take Config.helloLen.toNat
  opcRead   := Config.opcRead
  opcWrite  := Config.opcWrite
  rdFlag    := Config.rdFlag
  trailer   := Config.trailer
  ackWrite  := Config.ackWrite
  resetBody := Config.resetBytes.toList.take Config.resetLen.toNat

/-! ## The environment's choices (R9, R112, R113, R116) -/

/-- What the environment chooses at one `UartWrite(s)` (R112): `fail = none` is `ok`; `fail = some k` is `fail(k)`, read
as `k` bytes or all of `s` if `s` is shorter. `arrive` are the bytes that reach `RXQ` meanwhile (R116). -/
structure WriteDraw where
  fail   : Option Nat
  arrive : Bytes
deriving DecidableEq, Repr, Inhabited

/-- What the environment chooses at one `UartRead(n)` (R113): whether the channel fails, the bytes that arrive before
the timeout runs out, and the bytes that arrive after that and before the call has returned. The count `k` of
R113 follows: it is `n`, or all that had arrived in time where that is fewer. -/
structure ReadDraw where
  fail   : Bool
  inTime : Bytes
  late   : Bytes
deriving DecidableEq, Repr, Inhabited

/-- The bytes the environment appends to `RXQ` between two operations, where no script gives them. -/
opaque Config.freeArrival : Nat → Bytes
/-- The environment's choice at a write of the given bytes, where no script gives it. -/
opaque Config.freeWrite : Bytes → Nat → WriteDraw
/-- The environment's choice at a read of `n` bytes under the given `TIMEOUT`, where no script gives it. -/
opaque Config.freeRead : Duration → Nat → Nat → ReadDraw

/-! ## ERRINFO after a success (R23: "On success they are left unspecified") -/

/-- `EXP` after a success. -/
opaque Config.freeExp : Nat → Nat
/-- `ACT` after a success. -/
opaque Config.freeAct : Nat → Nat
/-- `OFF` after a success. -/
opaque Config.freeOff : Nat → Word

end Sys2Proof
end

