-- ==== Sys2Proof/Machine/Operands.lean ====
section
/-! DEFINITION. Operand forms: byte order (spec/20_memory.md rules R42, R43), the assembly of immediates
(spec/30_encoding.md rule R79), which operands can be expressed (R76), the command bodies (R67 to R71) and the
reply bodies (R72 to R74). -/

namespace Sys2Proof.Machine

/-! ## Byte order (R5, R42) -/

/-- `lo8(v) = v[7:0]`. -/
def lo8 (v : Word) : Byte := v.setWidth 8

/-- `hi8(v) = v[15:8]`. -/
def hi8 (v : Word) : Byte := (v >>> 8).setWidth 8

/-- `le16(v)`: the low byte first. -/
def le16 (v : Word) : Bytes := [lo8 v, hi8 v]

/-- The word whose low byte is `lo` and whose high byte is `hi`: `lo + 256 * hi` (R79). -/
def ofLe16 (lo hi : Byte) : Word := hi ++ lo

/-- The number `256 * a + b`, as an error report gives two magic bytes (R163). -/
def be16Nat (a b : Byte) : Nat := 256 * a.toNat + b.toNat

/-- A length as one unsigned byte (R62, R79). -/
def len8 (n : Nat) : Byte := BitVec.ofNat 8 n

/-- Element `i` of a sequence, read only where a length check has shown that it exists. -/
def byteAt (s : Bytes) (i : Nat) : Byte := s.getD i 0

/-! ## Which operands can be expressed (R76, R111) -/

/-- A body fits the one-byte length field (R62). -/
def bodyFits (body : Bytes) : Bool := decide (body.length ≤ Config.maxBody)

/-- The data of a write fit a body (R70, R146). -/
def writeDataFits (data : Bytes) : Bool := decide (data.length ≤ Config.maxWriteData)

/-- A duration UART.SETTO takes: neither zero nor infinite (R111). -/
def durationAdmitted (t : Duration) : Bool := decide (0 < t.num) && decide (0 < t.den)

/-- A read reply has eight unexamined bytes and then its data, or it is shorter than eight bytes and has no data; it
fits a body (R73, R62). -/
def replyReadFits (head data : Bytes) : Bool :=
  (decide (head.length = Config.rdReplySkip) || decide (head.length < Config.rdReplySkip) && data.isEmpty)
    && decide (head.length + data.length ≤ Config.maxBody)

/-- A write acknowledgement has three unexamined bytes before the echoed offset, and it fits a body (R74, R62). -/
def replyAckFits (mid tail : Bytes) : Bool := decide (mid.length = 3) && decide (6 + tail.length ≤ Config.maxBody)

/-! ## Command bodies -/

/-- The READ command body (R69). -/
def readBody (p : Params) (offset : Word) (length : Byte) : Bytes :=
  p.opcRead.toList ++ [Config.rdInnerLen, Config.hdrRsvd] ++ le16 offset ++ [length, p.rdFlag] ++ p.trailer.toList

/-- The WRITE command body (R70). -/
def writeBody (p : Params) (data : Bytes) (offset : Word) : Bytes :=
  p.opcWrite.toList ++ [len8 (data.length + 8), Config.hdrRsvd] ++ le16 offset
    ++ [len8 data.length, Config.wrFlag] ++ p.trailer.toList ++ data

/-! ## Reply bodies -/

/-- A write acknowledgement body that passes the block's checks (R74). -/
def ackBody (p : Params) (mid : Bytes) (offset : Word) (tail : Bytes) : Bytes :=
  [p.ackWrite] ++ mid ++ le16 offset ++ tail

/-- FWEXTRACT's test of one byte (R142). -/
def printable (b : Byte) : Bool := decide (Config.fwPrintLo ≤ b) && decide (b ≤ Config.fwPrintHi)

/-- The loop of FWEXTRACT (R142) over the rest of the reply, with room for `room` more bytes. -/
def fwTake : Nat → Bytes → Bytes
  | 0, _ => []
  | _ + 1, [] => []
  | room + 1, b :: rest => if printable b then b :: fwTake room rest else []

/-- FWEXTRACT (R142): the printable bytes from position 4 on, at most 18. -/
def fwExtract (r : Bytes) : Bytes := fwTake Config.fwMaxLen (r.drop Config.fwOffset)

end Sys2Proof.Machine
end

