-- ==== Sys2Proof/Syntax.lean ====
section
/-! DEFINITION. The instructions: one constructor per row of spec/opcode_table.json. The sixteen HOSTOP rows are the host's
operations (spec/30_encoding.md rule R75). The nine other rows are encodings of byte strings (rules R61, R63, R68 to R74);
as instructions they are the transmission of such a byte string (log 3). -/

namespace Sys2Proof

inductive Instr where
  -- HOSTOP rows (R75)
  /-- (reserved), `OPSEL = 0x0` (R77). -/
  | reserved
  /-- OBF.RST (R91). -/
  | obfRst
  /-- OBF.BYTE (R92). -/
  | obfByte (b : Byte)
  /-- OBF.MSG (R93). -/
  | obfMsg (m : Bytes)
  /-- CRC.CLR (R101). -/
  | crcClr
  /-- CRC.BYTE (R102). -/
  | crcByte (b : Byte)
  /-- CRC.MSG (R103). -/
  | crcMsg (m : Bytes)
  /-- UART.SETTO (R111). -/
  | uartSetto (t : Duration)
  /-- UART.WR (R112). -/
  | uartWr (m : Bytes)
  /-- UART.RD (R113). -/
  | uartRd (n : Nat)
  /-- SEND (R121). -/
  | send (body : Bytes)
  /-- RECV (R131). -/
  | recv
  /-- HANDSHAKE (R140). -/
  | handshake
  /-- READ_BLOCK (R143). -/
  | readBlock (offset : Word) (length : Byte)
  /-- WRITE_BLOCK (R145). -/
  | writeBlock (data : Bytes) (offset : Word)
  /-- DEV_RESET (R147). -/
  | devReset
  -- WIRE_FRAME rows
  /-- FRAME.CMD (R61): the command frame of `body` goes out on the line. -/
  | frameCmd (body : Bytes)
  /-- FRAME.REPLY (R63): a reply frame of `body` comes in from the line; `f0`, `f1` are its two unexamined footer bytes. -/
  | frameReply (body : Bytes) (f0 f1 : Byte)
  -- CMD_BODY rows
  /-- BODY.HELLO (R68). -/
  | bodyHello
  /-- BODY.READ (R69). -/
  | bodyRead (offset : Word) (length : Byte)
  /-- BODY.WRITE (R70). -/
  | bodyWrite (data : Bytes) (offset : Word)
  /-- BODY.RESET (R71). -/
  | bodyReset
  -- REPLY_BODY rows
  /-- REPLY.HELLO (R72): every byte of the body is the device's own, and the empty body is the empty reply. -/
  | replyHello (body : Bytes) (f0 f1 : Byte)
  /-- REPLY.READ (R73): eight unexamined bytes, then the data; or fewer than eight bytes and no data. -/
  | replyRead (head : Bytes) (data : Bytes) (f0 f1 : Byte)
  /-- REPLY.WRITE_ACK (R74): `ACK_WRITE`, three unexamined bytes, the echoed offset, any further bytes. -/
  | replyWriteAck (mid : Bytes) (offset : Word) (tail : Bytes) (f0 f1 : Byte)
deriving DecidableEq, Repr

end Sys2Proof
end

