-- ==== Sys2Proof/Decode.lean ====
section
/-! DEFINITION. The decoder from the bytes of one request to an instruction, and the encoder.

spec/30_encoding.md rule R75 numbers the host's operations by the 4-bit `OPSEL`, and R76 gives the operands beside it no bit
layout. The model lays a request out as bytes (log 2, DESIGN CHOICE): a selector byte, whose bits 3..0 are `OPSEL` and whose
bits 7..4 are 0 for the host's operations; then the operands in the order of the table, each as below. The nine rows that
are no host operation have the selectors 0x10 to 0x18.
  u8         one byte
  u16        two bytes, the low byte first (R42)
  natural    seven bits a byte, the low ones first, bit 7 set on every byte but the last
  bytes      their number as a natural, then the bytes
  duration   the numerator, then the denominator, each as a natural -/

namespace Sys2Proof

/-- Why a request is not an instruction. -/
inductive DecodeError where
  /-- No byte at all. -/
  | emptyRequest
  /-- The first byte is no selector. -/
  | unknownSelector (b : Byte)
  /-- The bytes end inside an operand. -/
  | truncatedOperand
  /-- Bytes are left after the last operand. -/
  | trailingBytes
deriving DecidableEq, Repr

/-- A parser of one operand: the operand and the bytes after it. -/
abbrev Parsed (α : Type) := Option (α × Bytes)

/-! ## Operands -/

def decodeByte : Bytes → Parsed Byte
  | [] => none
  | b :: rest => some (b, rest)

def decodeWord : Bytes → Parsed Word
  | lo :: hi :: rest => some (Machine.ofLe16 lo hi, rest)
  | _ => none

def decodeNat : Bytes → Parsed Nat
  | [] => none
  | b :: rest =>
    if b.toNat < 128 then some (b.toNat, rest)
    else match decodeNat rest with
      | none => none
      | some (n, rest') => some (b.toNat - 128 + 128 * n, rest')

/-- The first `n` bytes and the rest, where there are that many. -/
def splitExact (n : Nat) (s : Bytes) : Parsed Bytes :=
  if n ≤ s.length then some (s.take n, s.drop n) else none

def decodeBytes (s : Bytes) : Parsed Bytes :=
  match decodeNat s with
  | none => none
  | some (n, rest) => splitExact n rest

def decodeDuration (s : Bytes) : Parsed Duration :=
  match decodeNat s with
  | none => none
  | some (num, rest) =>
    match decodeNat rest with
    | none => none
    | some (den, rest') => some ({ num := num, den := den }, rest')

/-- Parse with `a`, then with `b`. -/
def parseBoth {α β : Type} (a : Bytes → Parsed α) (b : Bytes → Parsed β) (s : Bytes) : Parsed (α × β) :=
  match a s with
  | none => none
  | some (x, rest) =>
    match b rest with
    | none => none
    | some (y, rest') => some ((x, y), rest')

/-! ## Instructions -/

/-- An instruction made of a parsed operand, or the error. -/
def withOperand {α : Type} (r : Parsed α) (mk : α → Instr) : Except DecodeError (Instr × Bytes) :=
  match r with
  | none => .error .truncatedOperand
  | some (x, rest) => .ok (mk x, rest)

/-- The instruction whose selector is `sel` and whose operands begin `s`, with the bytes left over (R75, R77). -/
def decodeOperands (sel : Byte) (s : Bytes) : Except DecodeError (Instr × Bytes) :=
  match sel.toNat with
  | 0x00 => .ok (.reserved, s)
  | 0x01 => .ok (.obfRst, s)
  | 0x02 => withOperand (decodeByte s) .obfByte
  | 0x03 => withOperand (decodeBytes s) .obfMsg
  | 0x04 => .ok (.crcClr, s)
  | 0x05 => withOperand (decodeByte s) .crcByte
  | 0x06 => withOperand (decodeBytes s) .crcMsg
  | 0x07 => withOperand (decodeDuration s) .uartSetto
  | 0x08 => withOperand (decodeBytes s) .uartWr
  | 0x09 => withOperand (decodeNat s) .uartRd
  | 0x0A => withOperand (decodeBytes s) .send
  | 0x0B => .ok (.recv, s)
  | 0x0C => .ok (.handshake, s)
  | 0x0D => withOperand (parseBoth decodeWord decodeByte s) fun x => .readBlock x.1 x.2
  | 0x0E => withOperand (parseBoth decodeBytes decodeWord s) fun x => .writeBlock x.1 x.2
  | 0x0F => .ok (.devReset, s)
  | 0x10 => withOperand (decodeBytes s) .frameCmd
  | 0x11 => withOperand (parseBoth decodeBytes (parseBoth decodeByte decodeByte) s) fun x =>
      .frameReply x.1 x.2.1 x.2.2
  | 0x12 => .ok (.bodyHello, s)
  | 0x13 => withOperand (parseBoth decodeWord decodeByte s) fun x => .bodyRead x.1 x.2
  | 0x14 => withOperand (parseBoth decodeBytes decodeWord s) fun x => .bodyWrite x.1 x.2
  | 0x15 => .ok (.bodyReset, s)
  | 0x16 => withOperand (parseBoth decodeBytes (parseBoth decodeByte decodeByte) s) fun x =>
      .replyHello x.1 x.2.1 x.2.2
  | 0x17 => withOperand (parseBoth decodeBytes (parseBoth decodeBytes (parseBoth decodeByte decodeByte)) s) fun x =>
      .replyRead x.1 x.2.1 x.2.2.1 x.2.2.2
  | 0x18 => withOperand
      (parseBoth decodeBytes (parseBoth decodeWord (parseBoth decodeBytes (parseBoth decodeByte decodeByte))) s) fun x =>
      .replyWriteAck x.1 x.2.1 x.2.2.1 x.2.2.2.1 x.2.2.2.2
  | _ => .error (.unknownSelector sel)

/-- The instruction the bytes begin with, and the bytes after it. Total on any bytes. -/
def decodePrefix : Bytes → Except DecodeError (Instr × Bytes)
  | [] => .error .emptyRequest
  | sel :: s => decodeOperands sel s

/-- The instruction that is the whole request. -/
def decode (s : Bytes) : Except DecodeError Instr :=
  match decodePrefix s with
  | .error e => .error e
  | .ok (i, []) => .ok i
  | .ok (_, _ :: _) => .error .trailingBytes

/-! ## The encoder -/

/-- `encodeNat` with `fuel` further bytes allowed. -/
def encodeNatFuel : Nat → Nat → Bytes
  | 0, n => [BitVec.ofNat 8 n]
  | fuel + 1, n =>
    if n < 128 then [BitVec.ofNat 8 n] else BitVec.ofNat 8 (n % 128 + 128) :: encodeNatFuel fuel (n / 128)

def encodeNat (n : Nat) : Bytes := encodeNatFuel n n

def encodeBytes (s : Bytes) : Bytes := encodeNat s.length ++ s

def encodeDuration (t : Duration) : Bytes := encodeNat t.num ++ encodeNat t.den

/-- The selector byte of each instruction (R75; 0x10 to 0x18 are the model's own). -/
def selector : Instr → Byte
  | .reserved => 0x00
  | .obfRst => 0x01
  | .obfByte _ => 0x02
  | .obfMsg _ => 0x03
  | .crcClr => 0x04
  | .crcByte _ => 0x05
  | .crcMsg _ => 0x06
  | .uartSetto _ => 0x07
  | .uartWr _ => 0x08
  | .uartRd _ => 0x09
  | .send _ => 0x0A
  | .recv => 0x0B
  | .handshake => 0x0C
  | .readBlock _ _ => 0x0D
  | .writeBlock _ _ => 0x0E
  | .devReset => 0x0F
  | .frameCmd _ => 0x10
  | .frameReply _ _ _ => 0x11
  | .bodyHello => 0x12
  | .bodyRead _ _ => 0x13
  | .bodyWrite _ _ => 0x14
  | .bodyReset => 0x15
  | .replyHello _ _ _ => 0x16
  | .replyRead _ _ _ _ => 0x17
  | .replyWriteAck _ _ _ _ _ => 0x18

/-- The operand bytes of each instruction, in the order of the table. -/
def encodeOperands : Instr → Bytes
  | .reserved => []
  | .obfRst => []
  | .obfByte b => [b]
  | .obfMsg m => encodeBytes m
  | .crcClr => []
  | .crcByte b => [b]
  | .crcMsg m => encodeBytes m
  | .uartSetto t => encodeDuration t
  | .uartWr m => encodeBytes m
  | .uartRd n => encodeNat n
  | .send body => encodeBytes body
  | .recv => []
  | .handshake => []
  | .readBlock offset length => Machine.le16 offset ++ [length]
  | .writeBlock data offset => encodeBytes data ++ Machine.le16 offset
  | .devReset => []
  | .frameCmd body => encodeBytes body
  | .frameReply body f0 f1 => encodeBytes body ++ [f0, f1]
  | .bodyHello => []
  | .bodyRead offset length => Machine.le16 offset ++ [length]
  | .bodyWrite data offset => encodeBytes data ++ Machine.le16 offset
  | .bodyReset => []
  | .replyHello body f0 f1 => encodeBytes body ++ [f0, f1]
  | .replyRead head data f0 f1 => encodeBytes head ++ (encodeBytes data ++ [f0, f1])
  | .replyWriteAck mid offset tail f0 f1 =>
    encodeBytes mid ++ (Machine.le16 offset ++ (encodeBytes tail ++ [f0, f1]))

/-- The bytes of a request for the instruction. -/
def encode (i : Instr) : Bytes := selector i :: encodeOperands i

/-! ## Words numbered as spec/opcode_table.json numbers them -/

/-- The `n` bytes of `w`, its least significant byte first. -/
def bytesOfNat : Nat → Nat → Bytes
  | 0, _ => []
  | n + 1, w => BitVec.ofNat 8 w :: bytesOfNat n (w / 256)

/-- The bytes of the word `w` of `nbits` bits, then zeros: more of them than the longest operands of zeros take. -/
def paddedTableWord (nbits w : Nat) : Bytes := bytesOfNat ((nbits + 7) / 8) w ++ List.replicate 8 0

/-- The request whose first `nbits` bits are `w` and whose further bits are zero, as long as the instruction is. -/
def tableRequest (nbits w : Nat) : Bytes :=
  let bytes := paddedTableWord nbits w
  match decodePrefix bytes with
  | .error _ => bytes
  | .ok (_, rest) => bytes.take (bytes.length - rest.length)

/-- What the decoder reads from an instruction whose bits are `w`, numbered as the opcode table numbers them. -/
def decodeTableWord (nbits w : Nat) : Option Instr :=
  match decode (tableRequest nbits w) with
  | .ok i => some i
  | .error _ => none

end Sys2Proof
end

