-- ==== Sys2Proof/Machine/State.lean ====
section
/-! DEFINITION. The state of the block (spec/10_state.md rules R10 to R26), the state after reset (R27, R190), and the
reasons a step could stop. The fields below `op` are the model's own: what the host was answered, what the host and the
environment will do, and the counter of free values. -/

namespace Sys2Proof.Machine

/-- `TXSTATE` (R16). -/
inductive TxState where
  | txIdle | txHdr | txPayload | txFtr
deriving DecidableEq, Repr

/-- `RXSTATE` (R16). -/
inductive RxState where
  | rxIdle | rxHdr | rxBody | rxFtr
deriving DecidableEq, Repr

/-- `ERR` (R22, R161). -/
inductive ErrClass where
  | none | transportError | framingError | protocolError | initializationError | incompleteTransferError
deriving DecidableEq, Repr

/-- `ERRSUB` (R22, R163); `none` is the sub-cause 0 of a success. -/
inductive ErrSub where
  | none | writeFail | readFail | shortHeader | badHeaderMagic | badHeaderRsvd | shortBody | shortFooter
  | badFooterMagic | shortAck | badAckOpcode | badAckOffset | noReply | emptyFwstring | lengthMismatch
deriving DecidableEq, Repr

/-- `ERRINFO` (R23). -/
structure ErrInfo where
  exp : Nat
  act : Nat
  off : Word
deriving DecidableEq, Repr

/-- `OP` (R26): the operation in progress. -/
inductive OpName where
  | idle | obfRst | obfByte | obfMsg | crcClr | crcByte | crcMsg | uartSetto | uartWr | uartRd | send | recv
  | handshake | readBlock | writeBlock | devReset
deriving DecidableEq, Repr

/-- The result of an operation (R75, column "result"). -/
inductive Result where
  | none
  | byte (b : Byte)
  | word (w : Word)
  | bytes (s : Bytes)
deriving DecidableEq, Repr

/-- Why a request was refused (R76, R77, R111, R201). A refusal is no error class (R164). -/
inductive RefuseWhy where
  /-- `OPSEL = 0x0` (R77). -/
  | reservedOpsel
  /-- An operand that cannot be expressed (R76, R111). -/
  | operandOutOfType
  /-- A request while `BUSY = 1` (R201). -/
  | busy
  /-- Bytes that are no request in the model's layout (log 14). -/
  | undecodable
deriving DecidableEq, Repr

/-- What the host was last answered. -/
inductive Resp where
  /-- Nothing yet. -/
  | none
  /-- The operation returned. -/
  | returned (r : Result)
  /-- The operation raised; ERR, ERRSUB and ERRINFO say what. -/
  | raised
  /-- The request was refused; no register changed. -/
  | refused (why : RefuseWhy)
deriving DecidableEq, Repr

structure State where
  /-- `CRC` (R11). -/
  crc      : Word
  /-- `KIDX` (R12). -/
  kidx     : BitVec 4
  /-- `TIMEOUT` (R14). -/
  timeout  : Duration
  /-- `TXLOG` (R15), oldest byte first. -/
  txlog    : Bytes
  /-- `RXQ` (R15), head first. -/
  rxq      : Bytes
  /-- `TXSTATE` (R16). -/
  txstate  : TxState
  /-- `RXSTATE` (R16). -/
  rxstate  : RxState
  /-- `TXCNT` (R17). -/
  txcnt    : BitVec 9
  /-- `RXCNT` (R17). -/
  rxcnt    : BitVec 9
  /-- `RXHDR[0..3]` (R18). -/
  rxhdr    : Vector Byte 4
  /-- `RXBODY[0..254]` (R19), as the bytes came from the line. -/
  rxbody   : Vector Byte 255
  /-- `RXFTR[0..3]` (R20). -/
  rxftr    : Vector Byte 4
  /-- `BUSY` (R21). -/
  busy     : Bool
  /-- `ERR` (R22). -/
  err      : ErrClass
  /-- `ERRSUB` (R22). -/
  errsub   : ErrSub
  /-- `ERRINFO` (R23). -/
  errinfo  : ErrInfo
  /-- `TRIES` (R24). -/
  tries    : BitVec 3
  /-- `FWSTR[0..17]` (R25). -/
  fwstr    : Vector Byte 18
  /-- `FWLEN` (R25). -/
  fwlen    : BitVec 5
  /-- `OP` (R26). -/
  op       : OpName
  /-- The model's own: the answer to the host's last request. -/
  resp     : Resp
  /-- The model's own: the requests still to come, in order, each as its bytes (log 16). -/
  moves    : List Bytes
  /-- The model's own: the bytes the environment appends to `RXQ` between two steps, one entry a step (log 5). -/
  arrivals : List Bytes
  /-- The model's own: the environment's choices at the writes to come (log 5). -/
  writes   : List WriteDraw
  /-- The model's own: the environment's choices at the reads to come (log 5). -/
  reads    : List ReadDraw
  /-- The model's own: how many free values have been drawn (log 5, log 6). -/
  free     : Nat
deriving DecidableEq, Repr

/-- The state after reset: R27 for the block's registers. The bytes of `RXHDR`, `RXBODY`, `RXFTR` and `FWSTR` are
"unspecified" there; the model puts zero and no operation reads them (DESIGN CHOICE, log 7, unsafe). The fields from
`resp` on are the model's own: nothing answered, no request, nothing scripted (DESIGN CHOICE, log 16 and log 5, safe). -/
def State.reset : State where
  crc      := 0x0000
  kidx     := 0
  timeout  := Config.timeoutNominal
  txlog    := []
  rxq      := []
  txstate  := .txIdle
  rxstate  := .rxIdle
  txcnt    := 0
  rxcnt    := 0
  rxhdr    := Vector.replicate 4 0
  rxbody   := Vector.replicate 255 0
  rxftr    := Vector.replicate 4 0
  busy     := false
  err      := .none
  errsub   := .none
  errinfo  := { exp := 0, act := 0, off := 0 }
  tries    := 0
  fwstr    := Vector.replicate 18 0
  fwlen    := 0
  op       := .idle
  resp     := .none
  moves    := []
  arrivals := []
  writes   := []
  reads    := []
  free     := 0

/-- Why the machine could stop with a fault: it has no reason. The spec gives the block no stop; every operation ends by
returning or by raising an error class, after which the block goes on (R211, R172), and a host read that has no value to
give is refused (R30). -/
inductive Fault
deriving DecidableEq, Repr

/-- Why the model could decline to go on. No step and no instruction answers with one: what the spec calls a refusal (R76,
R77, R201) leaves the block as it was and the block goes on, so it is a next state whose `resp` says so. -/
inductive Refusal where
  /-- Raised by an arm of `exec` whose instruction has no meaning yet: no arm is such. Safe. -/
  | notModelled (mnemonic : String)
deriving DecidableEq, Repr

/-! ## Inside an operation -/

/-- What `raise E(sub, EXP, ACT, OFF)` carries (R170). -/
structure Raise where
  cls : ErrClass
  sub : ErrSub
  exp : Nat
  act : Nat
  off : Word
deriving DecidableEq, Repr

/-- How a part of an operation ends: it is done with a value, or it has raised an error; in either case with the state
it leaves. -/
inductive Ran (α : Type) where
  | done (a : α) (s : State)
  | raised (e : Raise) (s : State)
deriving DecidableEq, Repr

end Sys2Proof.Machine
end

