-- ==== Sys2Proof/Machine/Flags.lean ====
section
/-! DEFINITION. The error flags (spec/10_state.md rules R22, R23; spec/60_exceptions.md rules R161, R163): the numeric codes,
the class of each sub-cause, and the report each failing check makes. -/

namespace Sys2Proof.Machine

/-- The numeric code of an error class (R161). -/
def errCode : ErrClass → Nat
  | .none => 0
  | .transportError => 1
  | .framingError => 2
  | .protocolError => 3
  | .initializationError => 4
  | .incompleteTransferError => 5

/-- The class a sub-cause refines (R163). -/
def classOfSub : ErrSub → ErrClass
  | .none => .none
  | .writeFail => .transportError
  | .readFail => .transportError
  | .shortHeader => .framingError
  | .badHeaderMagic => .framingError
  | .badHeaderRsvd => .framingError
  | .shortBody => .framingError
  | .shortFooter => .framingError
  | .badFooterMagic => .framingError
  | .shortAck => .protocolError
  | .badAckOpcode => .protocolError
  | .badAckOffset => .protocolError
  | .noReply => .initializationError
  | .emptyFwstring => .initializationError
  | .lengthMismatch => .incompleteTransferError

/-- The report of a failing check: the class follows from the sub-cause (R163); `OFF` is 0 unless a composite adds it. -/
def report (sub : ErrSub) (exp act : Nat) : Raise :=
  { cls := classOfSub sub, sub := sub, exp := exp, act := act, off := 0 }

/-- R148: a composite that has an offset adds it to the report. -/
def Raise.withOff (e : Raise) (off : Word) : Raise := { e with off := off }

/-- ERRINFO after a success (R23: "left unspecified"), a free value (log 6). -/
def freeErrInfo (n : Nat) : ErrInfo :=
  { exp := Config.freeExp n, act := Config.freeAct n, off := Config.freeOff n }

end Sys2Proof.Machine
end

