-- ==== Sys2Proof/Machine/Ops.lean ====
section
/-! DEFINITION. The operations every meaning is made of: the environment's choices, the two primitives of the byte channel
(spec/42_uart_stream.md rules R112, R113), the entry and the end of an operation, error entry (spec/60_exceptions.md rule
R170), the return after it (R172), and a refused request (spec/30_encoding.md rules R76, R77). -/

namespace Sys2Proof.Machine

/-! ## Parts of an operation -/

/-- Do `r`, then `k` with its value; a raised error ends both (R148, R170). -/
def andThen {α β : Type} (r : Ran α) (k : α → State → Ran β) : Ran β :=
  match r with
  | .done a s => k a s
  | .raised e s => .raised e s

/-- R148: a composite with an offset adds it to whatever error ends it. -/
def addOff {α : Type} (off : Word) (r : Ran α) : Ran α :=
  match r with
  | .done a s => .done a s
  | .raised e s => .raised (e.withOff off) s

/-- The bytes `b` written over the first entries of a buffer (R18 to R20, R25). -/
def overwrite {n : Nat} (v : Vector Byte n) (b : Bytes) : Vector Byte n :=
  Vector.ofFn fun i => (b[i.val]?).getD v[i]

/-! ## The environment's choices (R9, R116) -/

/-- The bytes that arrive before the next step: the script's, else a free value. -/
def nextArrival (s : State) : Bytes :=
  match s.arrivals with
  | a :: _ => a
  | [] => Config.freeArrival s.free

/-- R116: the environment appends bytes to the tail of `RXQ`. -/
def arrive (s : State) : State :=
  { s with rxq := s.rxq ++ nextArrival s, arrivals := s.arrivals.tail, free := s.free + 1 }

/-- The environment's choice at the next write, of the bytes `out`: the script's, else a free value. -/
def nextWrite (out : Bytes) (s : State) : WriteDraw :=
  match s.writes with
  | d :: _ => d
  | [] => Config.freeWrite out s.free

/-- The environment's choice at the next read, of `n` bytes: the script's, else a free value. -/
def nextRead (n : Nat) (s : State) : ReadDraw :=
  match s.reads with
  | d :: _ => d
  | [] => Config.freeRead s.timeout n s.free

/-! ## The byte channel -/

/-- How many bytes of `out` leave when the environment chooses `fail(k)`: R112 lets `k` be at most their number. -/
def sentBeforeFail (k : Nat) (out : Bytes) : Nat := min k out.length

/-- Bytes are handed to the line all at once: they join `TXLOG` in their order (R15, R51). -/
def putOnLine (out : Bytes) (s : State) : State := { s with txlog := s.txlog ++ out }

/-- `UartWrite(s)` (R112), where `hand` says how the bytes that leave are handed to the line: all of them, or the prefix
that was out when the channel failed. Writing no byte always succeeds. -/
def uartWriteBy (hand : Bytes → State → State) (out : Bytes) (s : State) : Ran Unit :=
  let d := nextWrite out s
  let s := { s with writes := s.writes.tail, rxq := s.rxq ++ d.arrive, free := s.free + 1 }
  match d.fail, out with
  | some k, _ :: _ =>
    .raised (report .writeFail out.length (sentBeforeFail k out)) (hand (out.take (sentBeforeFail k out)) s)
  | _, _ => .done () (hand out s)

/-- `UartWrite(s)` (R112). -/
def uartWrite (out : Bytes) (s : State) : Ran Unit := uartWriteBy putOnLine out s

/-- `UartRead(n)` (R113, R114): the first `n` bytes that are there or arrive in time, or all of them if they are fewer;
they are consumed. A failing channel consumes nothing. Reading no byte returns at once and does not fail. -/
def uartRead (n : Nat) (s : State) : Ran Bytes :=
  let d := nextRead n s
  let s' := { s with reads := s.reads.tail, free := s.free + 1 }
  if d.fail && decide (n ≠ 0) then
    .raised (report .readFail n 0) { s' with rxq := s.rxq ++ d.inTime ++ d.late }
  else
    .done ((s.rxq ++ d.inTime).take n) { s' with rxq := (s.rxq ++ d.inTime).drop n ++ d.late }

/-! ## The beginning and the end of an operation -/

/-- A request that is not admitted (R76, R77, R201): no register changes; the host is told why. -/
def refuse (why : RefuseWhy) (s : State) : State := { s with resp := .refused why }

/-- `BUSY` and `OP` from the moment the host invokes an operation (R21, R26). -/
def beginOp (name : OpName) (s : State) : State := { s with busy := true, op := name }

/-- An operation returns (R21, R22, R26, R211): `ERR` and `ERRSUB` say success, and `ERRINFO` is left unspecified (R23). -/
def returnOp (r : Result) (s : State) : State :=
  { s with
    busy := false, op := .idle, err := .none, errsub := .none
    errinfo := freeErrInfo s.free, free := s.free + 1, resp := .returned r }

/-- Error entry (R170): the operation stops, the error is recorded, both sequencers go idle, no result is returned. -/
def raiseOp (e : Raise) (s : State) : State :=
  { s with
    err := e.cls, errsub := e.sub, errinfo := { exp := e.exp, act := e.act, off := e.off }
    txstate := .txIdle, rxstate := .rxIdle, op := .idle, busy := false, resp := .raised }

/-- The end of an operation, either way (R211). After an error as after a success the block is idle and takes the next
operation (R172): there is no handler and no return instruction. -/
def endOp (r : Ran Result) : State :=
  match r with
  | .done v s => returnOp v s
  | .raised e s => raiseOp e s

/-- The host invokes an operation: refused while `BUSY = 1` (R201) or with an operand that cannot be expressed (R76);
else it runs to its end, and the block goes on. -/
def invoke (name : OpName) (fits : Bool) (body : State → Ran Result) (s : State) :
    Host.Outcome State Fault Refusal :=
  .next (if s.busy then refuse .busy s
    else if fits then endOp (body (beginOp name s))
    else refuse .operandOutOfType s)

/-- The environment puts bytes on the line (R116): they reach the tail of `RXQ`, whatever the block is doing. Bytes that
are no frame of the named form are refused. -/
def deliver (fits : Bool) (frame : Bytes) (s : State) : Host.Outcome State Fault Refusal :=
  .next (if fits then { s with rxq := s.rxq ++ frame } else refuse .operandOutOfType s)

/-- The value of a part, as the operation's result. -/
def result {α : Type} (mk : α → Result) (r : Ran α) : Ran Result := andThen r fun a s => .done (mk a) s

end Sys2Proof.Machine
end

