-- ==== Sys2Proof/Machine/Crc.lean ====
section
/-! DEFINITION. The CRC engine (spec/41_crc.md): CRC.CLR, CRC.BYTE, CRC.MSG. The bit-serial procedure is the spec's own
passage from general knowledge (R100, G1; log 17). -/

namespace Sys2Proof.Machine

/-- One of the eight steps of R102: bit 15 is tested before the shift, and the bit shifted out is dropped. -/
def crcBit (c : Word) : Word := if c.getLsbD 15 then (c <<< 1) ^^^ Config.crcPoly else c <<< 1

/-- `n` steps of R102. -/
def crcBits : Nat → Word → Word
  | 0, c => c
  | n + 1, c => crcBits n (crcBit c)

/-- CRC.BYTE on a register value (R102): the byte enters at the top, then eight steps. -/
def crcByte (c : Word) (b : Byte) : Word := crcBits 8 (c ^^^ (b.setWidth 16 <<< 8))

/-- `crc16_xmodem(s)` (R103): the bytes in order from the initial value, no final XOR. -/
def crc16 (m : Bytes) : Word := m.foldl crcByte Config.crcInit

/-- The engine's pass over one message (R103; SEND uses it too, R107). -/
def crcMessage (m : Bytes) (s : State) : Ran Word := .done (crc16 m) { s with crc := crc16 m }

/-- One byte through the engine at the register `CRC` (R102). -/
def crcStep (b : Byte) (s : State) : Ran Word := .done (crcByte s.crc b) { s with crc := crcByte s.crc b }

/-- CRC.CLR (R101). -/
def execCrcClr (s : State) : Host.Outcome State Fault Refusal :=
  invoke .crcClr true (fun s => .done .none { s with crc := Config.crcInit }) s

/-- CRC.BYTE (R102). -/
def execCrcByte (b : Byte) (s : State) : Host.Outcome State Fault Refusal :=
  invoke .crcByte true (fun s => result .word (crcStep b s)) s

/-- CRC.MSG (R103). -/
def execCrcMsg (m : Bytes) (s : State) : Host.Outcome State Fault Refusal :=
  invoke .crcMsg true (fun s => result .word (crcMessage m s)) s

end Sys2Proof.Machine
end

