-- ==== Sys2Proof/Machine/Obfuscation.lean ====
section
/-! DEFINITION. The obfuscation codec (spec/40_obfuscation.md): OBF.RST, OBF.BYTE, OBF.MSG. -/

namespace Sys2Proof.Machine

/-- `KEY[i mod 16]` (R90). -/
def keyAt (key : Vector Byte 16) (i : Nat) : Byte := key[i % 16]

/-- `OBF(s)` as the pure function of R90: byte `i` is XORed with `KEY[i mod 16]`. -/
def obf (key : Vector Byte 16) (s : Bytes) : Bytes := s.mapIdx fun i b => b ^^^ keyAt key i

/-- The loop of R93 from the position `k` on: the output bytes, and `KIDX` at the end. -/
def obfLoop (key : Vector Byte 16) : BitVec 4 → Bytes → Bytes × BitVec 4
  | k, [] => ([], k)
  | k, b :: rest => ((b ^^^ keyAt key k.toNat) :: (obfLoop key (k + 1) rest).1, (obfLoop key (k + 1) rest).2)

/-- The codec's pass over one message, from `KIDX = 0` (R93; SEND and RECV use it too, R97). -/
def obfMessage (p : Params) (m : Bytes) (s : State) : Ran Bytes :=
  .done (obfLoop p.key 0 m).1 { s with kidx := (obfLoop p.key 0 m).2 }

/-- One step of the codec at the register `KIDX` (R92). -/
def obfStep (p : Params) (b : Byte) (s : State) : Ran Byte :=
  .done (b ^^^ keyAt p.key s.kidx.toNat) { s with kidx := s.kidx + 1 }

/-- OBF.RST (R91). -/
def execObfRst (s : State) : Host.Outcome State Fault Refusal :=
  invoke .obfRst true (fun s => .done .none { s with kidx := 0 }) s

/-- OBF.BYTE (R92), for any parameters. -/
def obfByteWith (p : Params) (b : Byte) (s : State) : Host.Outcome State Fault Refusal :=
  invoke .obfByte true (fun s => result .byte (obfStep p b s)) s

/-- OBF.BYTE (R92). -/
def execObfByte (b : Byte) (s : State) : Host.Outcome State Fault Refusal := obfByteWith Config.params b s

/-- OBF.MSG (R93), for any parameters. -/
def obfMsgWith (p : Params) (m : Bytes) (s : State) : Host.Outcome State Fault Refusal :=
  invoke .obfMsg true (fun s => result .bytes (obfMessage p m s)) s

/-- OBF.MSG (R93). -/
def execObfMsg (m : Bytes) (s : State) : Host.Outcome State Fault Refusal := obfMsgWith Config.params m s

end Sys2Proof.Machine
end

