-- ==== Sys2Proof/Machine/Frame.lean ====
section
/-! DEFINITION. The frame encoder and decoder: the wire frame (spec/30_encoding.md rules R61 to R66), SEND
(spec/43_frame_tx.md), RECV (spec/44_frame_rx.md), and the two WIRE_FRAME rows of the opcode table. -/

namespace Sys2Proof.Machine

/-! ## The wire frame -/

/-- The four header bytes of a frame of body length `n` (R61, R43). -/
def frameHeader (n : Nat) : Bytes := [Config.hdrMagic0, Config.hdrMagic1, len8 n, Config.hdrRsvd]

/-- The footer magic (R61, R43). -/
def footerMagic : Bytes := [Config.ftrMagic0, Config.ftrMagic1]

/-- `ENCODE(B)` (R120): the command frame of the body `B`. -/
def encodeFrame (key : Vector Byte 16) (body : Bytes) : Bytes :=
  frameHeader body.length ++ obf key (body ++ le16 (crc16 body)) ++ footerMagic

/-- A reply frame (R63): the two footer bytes before the magic are any. -/
def replyFrame (key : Vector Byte 16) (body : Bytes) (f0 f1 : Byte) : Bytes :=
  frameHeader body.length ++ obf key body ++ [f0, f1] ++ footerMagic

/-- R131's test of header bytes 0 and 1. -/
def headerMagicOk (h : Bytes) : Bool := byteAt h 0 == Config.hdrMagic0 && byteAt h 1 == Config.hdrMagic1

/-- R131's test of footer bytes 2 and 3. -/
def footerMagicOk (f : Bytes) : Bool := byteAt f 2 == Config.ftrMagic0 && byteAt f 3 == Config.ftrMagic1

/-- `DECODE(w)` (R130): defined on a whole frame; the two footer bytes before the magic and any CRC are not looked at
(R134, R135). -/
def decodeFrame (key : Vector Byte 16) (w : Bytes) : Option Bytes :=
  let n := (byteAt w 2).toNat
  if w.length = n + 8 ∧ headerMagicOk w = true ∧ byteAt w 3 = Config.hdrRsvd
      ∧ footerMagicOk (w.drop (n + 4)) = true then
    some (obf key ((w.drop 4).take n))
  else none

/-! ## SEND -/

/-- `TXSTATE` while the encoder is at wire position `pos` of a frame of body length `n` (R122). -/
def txPhase (n pos : Nat) : TxState :=
  if pos < 4 then .txHdr else if pos < n + 6 then .txPayload else if pos < n + 8 then .txFtr else .txIdle

/-- The sequencer's counters when `pos` bytes of the frame have been written (R16, R17, R122). -/
def txAt (n pos : Nat) (s : State) : State := { s with txstate := txPhase n pos, txcnt := BitVec.ofNat 9 pos }

/-- The encoder emits bytes of a frame of body length `n` one at a time, from wire position `pos` on (R16, R122): at each
position the sequencer takes the position's phase and count, then the byte goes out; after the last byte it stands at
the position after it. A whole frame takes `TXSTATE` through `TX_HDR`, `TX_PAYLOAD`, `TX_FTR` to `TX_IDLE`. -/
def emitFrom (n : Nat) : Nat → Bytes → State → State
  | pos, [], s => txAt n pos s
  | pos, b :: rest, s => emitFrom n (pos + 1) rest (putOnLine [b] (txAt n pos s))

/-- The one `UartWrite` of SEND (R121, R122): the encoder emits the whole frame, or the prefix the environment let
through. -/
def transmit (n : Nat) (frame : Bytes) (s : State) : Ran Unit := uartWriteBy (emitFrom n 0) frame s

/-- `SEND(body)` (R121), for a body of at most 255 bytes. -/
def sendBody (p : Params) (body : Bytes) (s : State) : Ran Unit :=
  andThen (crcMessage body s) fun c s =>
  andThen (obfMessage p (body ++ le16 c) s) fun payload s =>
  transmit body.length (frameHeader body.length ++ payload ++ footerMagic) s

/-- SEND (R121), for any parameters: a body of more than 255 bytes is refused. -/
def sendWith (p : Params) (body : Bytes) (s : State) : Host.Outcome State Fault Refusal :=
  invoke .send (bodyFits body) (fun s => result (fun _ => .none) (sendBody p body s)) s

/-- SEND (R121). -/
def execSend (body : Bytes) (s : State) : Host.Outcome State Fault Refusal := sendWith Config.params body s

/-! ## RECV -/

/-- One of RECV's three reads (R132): the sequencer is in the phase, and the bytes got are counted (R17). -/
def readPhase (phase : RxState) (n : Nat) (s : State) : Ran Bytes :=
  andThen (uartRead n { s with rxstate := phase }) fun b s =>
  .done b { s with rxcnt := s.rxcnt + BitVec.ofNat 9 b.length }

/-- The header read and its checks, in the order of R131. The value is `RXLEN`. -/
def recvHeader (s : State) : Ran Byte :=
  andThen (readPhase .rxHdr 4 { s with rxcnt := 0 }) fun h s =>
  if h.length < 4 then .raised (report .shortHeader 4 h.length) s
  else if headerMagicOk h = false then
    .raised (report .badHeaderMagic 0xABCD (be16Nat (byteAt h 0) (byteAt h 1))) s
  else if byteAt h 3 ≠ Config.hdrRsvd then .raised (report .badHeaderRsvd 0x00 (byteAt h 3).toNat) s
  else .done (byteAt h 2) { s with rxhdr := overwrite s.rxhdr h }

/-- The body read and its check (R131). -/
def recvPayload (n : Nat) (s : State) : Ran Bytes :=
  andThen (readPhase .rxBody n s) fun b s =>
  if b.length < n then .raised (report .shortBody n b.length) s
  else .done b { s with rxbody := overwrite s.rxbody b }

/-- The footer read and its checks (R131): its first two bytes are kept and never tested (R134). -/
def recvFooter (s : State) : Ran Unit :=
  andThen (readPhase .rxFtr 4 s) fun f s =>
  if f.length < 4 then .raised (report .shortFooter 4 f.length) s
  else if footerMagicOk f = false then
    .raised (report .badFooterMagic 0xDCBA (be16Nat (byteAt f 2) (byteAt f 3))) { s with rxftr := overwrite s.rxftr f }
  else .done () { s with rxftr := overwrite s.rxftr f }

/-- `RECV()` (R131): no CRC is computed or compared (R135). -/
def recvBody (p : Params) (s : State) : Ran Bytes :=
  andThen (recvHeader s) fun len s =>
  andThen (recvPayload len.toNat s) fun b s =>
  andThen (recvFooter s) fun _ s =>
  obfMessage p b { s with rxstate := .rxIdle }

/-- RECV (R131), for any parameters. -/
def recvWith (p : Params) (s : State) : Host.Outcome State Fault Refusal :=
  invoke .recv true (fun s => result .bytes (recvBody p s)) s

/-- RECV (R131). -/
def execRecv (s : State) : Host.Outcome State Fault Refusal := recvWith Config.params s

/-! ## The WIRE_FRAME rows of the opcode table (log 3, DESIGN CHOICE) -/

/-- FRAME.CMD (R61): the block puts the command frame of `body` on the line. That is what SEND of `body` does, and
nothing else of the block does it. -/
def execFrameCmd (body : Bytes) (s : State) : Host.Outcome State Fault Refusal :=
  invoke .send (bodyFits body) (fun s => result (fun _ => .none) (sendBody Config.params body s)) s

/-- FRAME.REPLY (R63), for any parameters. -/
def frameReplyWith (p : Params) (body : Bytes) (f0 f1 : Byte) (s : State) : Host.Outcome State Fault Refusal :=
  deliver (bodyFits body) (replyFrame p.key body f0 f1) s

/-- FRAME.REPLY (R63): the environment puts a reply frame on the line, and its bytes reach the tail of `RXQ` (R15, R116). -/
def execFrameReply (body : Bytes) (f0 f1 : Byte) (s : State) : Host.Outcome State Fault Refusal :=
  frameReplyWith Config.params body f0 f1 s

end Sys2Proof.Machine
end

