-- ==== Sys2Proof/Machine/Command.lean ====
section
/-! DEFINITION. The command layer (spec/45_commands.md): HANDSHAKE, READ_BLOCK, WRITE_BLOCK, DEV_RESET; and the rows of the
opcode table that are command bodies and reply bodies (spec/30_encoding.md rules R68 to R74). -/

namespace Sys2Proof.Machine

/-! ## HANDSHAKE -/

/-- The retry loop (R140, R141) with `n` attempts left: only an empty reply leads to another attempt, and every error
ends the loop at once. `TRIES` is the number of attempts left. -/
def helloLoop (p : Params) : Nat → State → Ran Bytes
  | 0, s => .raised (report .noReply Config.handshakeTries Config.handshakeTries) s
  | n + 1, s =>
    andThen (sendBody p p.helloBody s) fun _ s =>
    andThen (recvBody p s) fun r s =>
    match r with
    | _ :: _ => .done r s
    | [] => helloLoop p n { s with tries := BitVec.ofNat 3 n }

/-- The end of HANDSHAKE (R140): the firmware string is committed only if it is not empty. -/
def commitFw (r : Bytes) (s : State) : Ran Bytes :=
  match fwExtract r with
  | [] => .raised (report .emptyFwstring 1 0) s
  | b :: rest =>
    .done (b :: rest)
      { s with fwstr := overwrite s.fwstr (b :: rest), fwlen := BitVec.ofNat 5 (b :: rest).length }

/-- `HANDSHAKE()` (R140). -/
def handshakeBody (p : Params) (s : State) : Ran Bytes :=
  andThen (helloLoop p Config.handshakeTries { s with tries := BitVec.ofNat 3 Config.handshakeTries }) commitFw

/-- HANDSHAKE (R140), for any parameters. -/
def handshakeWith (p : Params) (s : State) : Host.Outcome State Fault Refusal :=
  invoke .handshake true (fun s => result .bytes (handshakeBody p s)) s

/-- HANDSHAKE (R140). -/
def execHandshake (s : State) : Host.Outcome State Fault Refusal := handshakeWith Config.params s

/-! ## READ_BLOCK -/

/-- READ_BLOCK's check of the reply (R143): the data are the bytes from position 8 on, and they must be `length` bytes. -/
def checkRead (length : Byte) (r : Bytes) (s : State) : Ran Bytes :=
  if (r.drop Config.rdReplySkip).length ≠ length.toNat then
    .raised (report .lengthMismatch length.toNat (r.drop Config.rdReplySkip).length) s
  else .done (r.drop Config.rdReplySkip) s

/-- `READ_BLOCK(offset, length)` (R143). -/
def readBlockBody (p : Params) (offset : Word) (length : Byte) (s : State) : Ran Bytes :=
  addOff offset
    (andThen (sendBody p (readBody p offset length) s) fun _ s =>
     andThen (recvBody p s) fun r s => checkRead length r s)

/-- READ_BLOCK (R143), for any parameters. -/
def readBlockWith (p : Params) (offset : Word) (length : Byte) (s : State) : Host.Outcome State Fault Refusal :=
  invoke .readBlock true (fun s => result .bytes (readBlockBody p offset length s)) s

/-- READ_BLOCK (R143). -/
def execReadBlock (offset : Word) (length : Byte) (s : State) : Host.Outcome State Fault Refusal :=
  readBlockWith Config.params offset length s

/-! ## WRITE_BLOCK -/

/-- WRITE_BLOCK's checks of the acknowledgement, in the order of R145. -/
def checkAck (p : Params) (offset : Word) (r : Bytes) (s : State) : Ran Unit :=
  if r.length < 6 then .raised (report .shortAck 6 r.length) s
  else if byteAt r 0 ≠ p.ackWrite then .raised (report .badAckOpcode p.ackWrite.toNat (byteAt r 0).toNat) s
  else if byteAt r 4 ≠ lo8 offset ∨ byteAt r 5 ≠ hi8 offset then
    .raised (report .badAckOffset offset.toNat (ofLe16 (byteAt r 4) (byteAt r 5)).toNat) s
  else .done () s

/-- `WRITE_BLOCK(data, offset)` (R145), for data of at most 243 bytes. -/
def writeBlockBody (p : Params) (data : Bytes) (offset : Word) (s : State) : Ran Unit :=
  addOff offset
    (andThen (sendBody p (writeBody p data offset) s) fun _ s =>
     andThen (recvBody p s) fun r s => checkAck p offset r s)

/-- WRITE_BLOCK (R145), for any parameters: more than 243 data bytes are refused (R146). -/
def writeBlockWith (p : Params) (data : Bytes) (offset : Word) (s : State) : Host.Outcome State Fault Refusal :=
  invoke .writeBlock (writeDataFits data) (fun s => result (fun _ => .none) (writeBlockBody p data offset s)) s

/-- WRITE_BLOCK (R145). -/
def execWriteBlock (data : Bytes) (offset : Word) (s : State) : Host.Outcome State Fault Refusal :=
  writeBlockWith Config.params data offset s

/-! ## DEV_RESET -/

/-- DEV_RESET (R147), for any parameters: no reply is read (R204). -/
def devResetWith (p : Params) (s : State) : Host.Outcome State Fault Refusal :=
  invoke .devReset true (fun s => result (fun _ => .none) (sendBody p p.resetBody s)) s

/-- DEV_RESET (R147). -/
def execDevReset (s : State) : Host.Outcome State Fault Refusal := devResetWith Config.params s

/-! ## The CMD_BODY rows of the opcode table (log 3, DESIGN CHOICE)

A command body goes out in a command frame, which is what SEND of it does (R60, R78). -/

/-- BODY.HELLO (R68). -/
def execBodyHello (s : State) : Host.Outcome State Fault Refusal :=
  invoke .send true (fun s => result (fun _ => .none) (sendBody Config.params Config.params.helloBody s)) s

/-- BODY.READ (R69). -/
def execBodyRead (offset : Word) (length : Byte) (s : State) : Host.Outcome State Fault Refusal :=
  invoke .send true
    (fun s => result (fun _ => .none) (sendBody Config.params (readBody Config.params offset length) s)) s

/-- BODY.WRITE (R70). -/
def execBodyWrite (data : Bytes) (offset : Word) (s : State) : Host.Outcome State Fault Refusal :=
  invoke .send (writeDataFits data)
    (fun s => result (fun _ => .none) (sendBody Config.params (writeBody Config.params data offset) s)) s

/-- BODY.RESET (R71). -/
def execBodyReset (s : State) : Host.Outcome State Fault Refusal :=
  invoke .send true (fun s => result (fun _ => .none) (sendBody Config.params Config.params.resetBody s)) s

/-! ## The REPLY_BODY rows of the opcode table (log 3, DESIGN CHOICE)

A reply body comes in from the line in a reply frame (R60, R63), whose two unexamined footer bytes are the device's. -/

/-- REPLY.HELLO (R72). -/
def execReplyHello (body : Bytes) (f0 f1 : Byte) (s : State) : Host.Outcome State Fault Refusal :=
  deliver (bodyFits body) (replyFrame Config.params.key body f0 f1) s

/-- REPLY.READ (R73). -/
def execReplyRead (head data : Bytes) (f0 f1 : Byte) (s : State) : Host.Outcome State Fault Refusal :=
  deliver (replyReadFits head data) (replyFrame Config.params.key (head ++ data) f0 f1) s

/-- REPLY.WRITE_ACK (R74). -/
def execReplyWriteAck (mid : Bytes) (offset : Word) (tail : Bytes) (f0 f1 : Byte) (s : State) :
    Host.Outcome State Fault Refusal :=
  deliver (replyAckFits mid tail) (replyFrame Config.params.key (ackBody Config.params mid offset tail) f0 f1) s

end Sys2Proof.Machine
end

