-- ==== Sys2Proof/Machine/HostPort.lean ====
section
/-! DEFINITION. The host's port beside its requests: the reserved code (spec/30_encoding.md rule R77), and what the host may
read (spec/10_state.md rules R29, R30). -/

namespace Sys2Proof.Machine

/-- (reserved), `OPSEL = 0x0`: refused, no state change (R77). -/
def execReserved (s : State) : Host.Outcome State Fault Refusal := .next (refuse .reservedOpsel s)

/-- What the host may read whenever `BUSY = 0` (R29). -/
inductive HostReg where
  | err | errsub | errinfo | fwlen
  | fwstr (i : Nat)
deriving DecidableEq, Repr

/-- Why a host read is refused. -/
inductive ReadRefusal where
  /-- A read while `BUSY = 1` (R29). -/
  | busy
  /-- A read of `FWSTR[i]` with `FWLEN <= i`, which holds no value (R30). -/
  | noValue
deriving DecidableEq, Repr

/-- The answer to a host read: the register's value, or that the read is refused. -/
inductive HostAnswer where
  | cls (c : ErrClass)
  | sub (e : ErrSub)
  | info (i : ErrInfo)
  | len (n : BitVec 5)
  | byte (b : Byte)
  | refused (why : ReadRefusal)
deriving DecidableEq, Repr

/-- The host reads a register (R29). A read while `BUSY = 1` is refused; `FWSTR[i]` is readable for `i < FWLEN` only, and a
read beyond is refused (R30: it "must fault or be refused, not return zero"). It is no row of the opcode table and changes
nothing; refused or not, the block goes on. -/
def hostRead (r : HostReg) (s : State) : HostAnswer :=
  if s.busy then .refused .busy
  else match r with
  | .err => .cls s.err
  | .errsub => .sub s.errsub
  | .errinfo => .info s.errinfo
  | .fwlen => .len s.fwlen
  | .fwstr i =>
    match s.fwstr[i]? with
    | some b => if i < s.fwlen.toNat then .byte b else .refused .noValue
    | none => .refused .noValue

end Sys2Proof.Machine
end

