-- ==== Sys2Proof/Machine/Uart.lean ====
section
/-! DEFINITION. The UART byte-stream handler's operations (spec/42_uart_stream.md): UART.SETTO, UART.WR, UART.RD, over the
primitives of Ops. -/

namespace Sys2Proof.Machine

/-- UART.SETTO (R111): a zero or infinite duration is refused. -/
def execUartSetto (t : Duration) (s : State) : Host.Outcome State Fault Refusal :=
  invoke .uartSetto (durationAdmitted t) (fun s => .done .none { s with timeout := t }) s

/-- UART.WR (R112). -/
def execUartWr (m : Bytes) (s : State) : Host.Outcome State Fault Refusal :=
  invoke .uartWr true (fun s => result (fun _ => .none) (uartWrite m s)) s

/-- UART.RD (R113): a short read is a success of this operation. -/
def execUartRd (n : Nat) (s : State) : Host.Outcome State Fault Refusal :=
  invoke .uartRd true (fun s => result .bytes (uartRead n s)) s

end Sys2Proof.Machine
end

