-- ==== Sys2Proof/Machine/Dispatch.lean ====
section
/-! DEFINITION. One arm per instruction: each calls its meaning. -/

namespace Sys2Proof.Machine

def exec (i : Instr) (s : State) : Host.Outcome State Fault Refusal :=
  match i with
  | .reserved => Sys2Proof.Machine.execReserved s
  | .obfRst => Sys2Proof.Machine.execObfRst s
  | .obfByte b => Sys2Proof.Machine.execObfByte b s
  | .obfMsg m => Sys2Proof.Machine.execObfMsg m s
  | .crcClr => Sys2Proof.Machine.execCrcClr s
  | .crcByte b => Sys2Proof.Machine.execCrcByte b s
  | .crcMsg m => Sys2Proof.Machine.execCrcMsg m s
  | .uartSetto t => Sys2Proof.Machine.execUartSetto t s
  | .uartWr m => Sys2Proof.Machine.execUartWr m s
  | .uartRd n => Sys2Proof.Machine.execUartRd n s
  | .send body => Sys2Proof.Machine.execSend body s
  | .recv => Sys2Proof.Machine.execRecv s
  | .handshake => Sys2Proof.Machine.execHandshake s
  | .readBlock offset length => Sys2Proof.Machine.execReadBlock offset length s
  | .writeBlock data offset => Sys2Proof.Machine.execWriteBlock data offset s
  | .devReset => Sys2Proof.Machine.execDevReset s
  | .frameCmd body => Sys2Proof.Machine.execFrameCmd body s
  | .frameReply body f0 f1 => Sys2Proof.Machine.execFrameReply body f0 f1 s
  | .bodyHello => Sys2Proof.Machine.execBodyHello s
  | .bodyRead offset length => Sys2Proof.Machine.execBodyRead offset length s
  | .bodyWrite data offset => Sys2Proof.Machine.execBodyWrite data offset s
  | .bodyReset => Sys2Proof.Machine.execBodyReset s
  | .replyHello body f0 f1 => Sys2Proof.Machine.execReplyHello body f0 f1 s
  | .replyRead head data f0 f1 => Sys2Proof.Machine.execReplyRead head data f0 f1 s
  | .replyWriteAck mid offset tail f0 f1 => Sys2Proof.Machine.execReplyWriteAck mid offset tail f0 f1 s

end Sys2Proof.Machine
end

