-- ==== Sys2Proof/Machine/Step.lean ====
section
/-! DEFINITION. One step: the environment may put bytes on the line (R116), then the next request is fetched, decoded and
run to its end (spec/20_memory.md rule R52: operation k+1 begins after operation k has ended). -/

namespace Sys2Proof.Machine

/-- A fetched request: an instruction is run; bytes that are no request are refused at the boundary (R76, log 14). -/
def runRequest (request : Bytes) (s : State) : Host.Outcome State Fault Refusal :=
  match decode request with
  | .ok i => exec i s
  | .error _ => .next (refuse .undecodable s)

/-- One step. With no request left the block is idle and waits (R190). -/
def step (s : State) : Host.Outcome State Fault Refusal :=
  match (arrive s).moves with
  | [] => .next (arrive s)
  | request :: rest => runRequest request { arrive s with moves := rest }

/-- `s` with the request whose first `nbits` bits are `w`, and whose further bits are zero, as the next one. -/
def State.withFetchWord (s : State) (nbits w : Nat) : State := { s with moves := tableRequest nbits w :: s.moves }

end Sys2Proof.Machine
end

