-- ==== Sys2Proof/WellFormed.lean ====
section
/-! DEFINITION. Which instructions have operands that can be expressed (spec/30_encoding.md rule R76, decision D8;
spec/42_uart_stream.md rule R111). A request whose operands fail the check is refused at the boundary. -/

namespace Sys2Proof

/-- The operand check of each instruction (R76, R111, and the layouts of R61, R63, R69 to R74). -/
def Instr.wellFormed : Instr → Bool
  | .reserved => true
  | .obfRst => true
  | .obfByte _ => true
  | .obfMsg _ => true
  | .crcClr => true
  | .crcByte _ => true
  | .crcMsg _ => true
  | .uartSetto t => Machine.durationAdmitted t
  | .uartWr _ => true
  | .uartRd _ => true
  | .send body => Machine.bodyFits body
  | .recv => true
  | .handshake => true
  | .readBlock _ _ => true
  | .writeBlock data _ => Machine.writeDataFits data
  | .devReset => true
  | .frameCmd body => Machine.bodyFits body
  | .frameReply body _ _ => Machine.bodyFits body
  | .bodyHello => true
  | .bodyRead _ _ => true
  | .bodyWrite data _ => Machine.writeDataFits data
  | .bodyReset => true
  | .replyHello body _ _ => Machine.bodyFits body
  | .replyRead head data _ _ => Machine.replyReadFits head data
  | .replyWriteAck mid _ tail _ _ => Machine.replyAckFits mid tail

end Sys2Proof
end

