-- ==== Sys2Proof/Safety.lean ====
section
/-! DEFINITION. The vocabulary of the claims: what a legal state is, which error classes an operation can end in, and the
state that a part of an operation leaves, written out field by field. -/

namespace Sys2Proof.Safety

open Sys2Proof.Machine

/-! ## Legal states -/

/-- No operation is in progress: `BUSY = 0`, `OP = IDLE` and both sequencers idle (R16, R21, R26). -/
structure BlockIdle (s : State) : Prop where
  busy    : s.busy = false
  op      : s.op = .idle
  txstate : s.txstate = .txIdle
  rxstate : s.rxstate = .rxIdle

/-- `FWLEN` is in 0..18 and every byte of `FWSTR[0 .. FWLEN)` is in 0x20..0x7E (R25). -/
structure FwPrintable (s : State) : Prop where
  len   : s.fwlen.toNat ≤ 18
  bytes : ∀ (i : Nat) (h : i < 18), i < s.fwlen.toNat → 0x20 ≤ s.fwstr[i].toNat ∧ s.fwstr[i].toNat ≤ 0x7E

/-- The invariant of the block between operations (R14, R16, R17, R22, R24, R25, R26). -/
structure BlockInv (s : State) : Prop where
  idle    : BlockIdle s
  fw      : FwPrintable s
  tries   : s.tries.toNat ≤ 5
  txcnt   : s.txcnt.toNat ≤ 263
  rxcnt   : s.rxcnt.toNat ≤ 263
  timeout : 0 < s.timeout.num ∧ 0 < s.timeout.den
  err     : classOfSub s.errsub = s.err

/-! ## Kinds of instructions -/

/-- The rows that set the block to work: every operation but the reserved code, and the rows of outgoing byte strings. -/
def invokesBlock : Instr → Bool
  | .reserved => false
  | .frameReply _ _ _ => false
  | .replyHello _ _ _ => false
  | .replyRead _ _ _ _ => false
  | .replyWriteAck _ _ _ _ _ => false
  | .obfRst => true
  | .obfByte _ => true
  | .obfMsg _ => true
  | .crcClr => true
  | .crcByte _ => true
  | .crcMsg _ => true
  | .uartSetto _ => true
  | .uartWr _ => true
  | .uartRd _ => true
  | .send _ => true
  | .recv => true
  | .handshake => true
  | .readBlock _ _ => true
  | .writeBlock _ _ => true
  | .devReset => true
  | .frameCmd _ => true
  | .bodyHello => true
  | .bodyRead _ _ => true
  | .bodyWrite _ _ => true
  | .bodyReset => true

/-- R164's table: the error classes an operation can end in. A row of an outgoing byte string is as SEND (log 3). -/
def mayRaise : Instr → List ErrClass
  | .reserved => []
  | .obfRst => []
  | .obfByte _ => []
  | .obfMsg _ => []
  | .crcClr => []
  | .crcByte _ => []
  | .crcMsg _ => []
  | .uartSetto _ => []
  | .uartWr _ => [.transportError]
  | .uartRd _ => [.transportError]
  | .send _ => [.transportError]
  | .recv => [.transportError, .framingError]
  | .handshake => [.transportError, .framingError, .initializationError]
  | .readBlock _ _ => [.transportError, .framingError, .incompleteTransferError]
  | .writeBlock _ _ => [.transportError, .framingError, .protocolError]
  | .devReset => [.transportError]
  | .frameCmd _ => [.transportError]
  | .frameReply _ _ _ => []
  | .bodyHello => [.transportError]
  | .bodyRead _ _ => [.transportError]
  | .bodyWrite _ _ => [.transportError]
  | .bodyReset => [.transportError]
  | .replyHello _ _ _ => []
  | .replyRead _ _ _ _ => []
  | .replyWriteAck _ _ _ _ _ => []

/-- The registers and streams of R29's table, but for `RXQ`, which the environment writes too. -/
inductive RegName where
  | crc | kidx | timeout | txlog | buffers | tries | fwstr
deriving DecidableEq, Repr

/-- R29's table: what an operation may write, beside the error report. A row of an outgoing byte string is as SEND, and a row
of an incoming one writes `RXQ` only (log 3). -/
def mayWrite : Instr → List RegName
  | .reserved => []
  | .obfRst => [.kidx]
  | .obfByte _ => [.kidx]
  | .obfMsg _ => [.kidx]
  | .crcClr => [.crc]
  | .crcByte _ => [.crc]
  | .crcMsg _ => [.crc]
  | .uartSetto _ => [.timeout]
  | .uartWr _ => [.txlog]
  | .uartRd _ => []
  | .send _ => [.crc, .kidx, .txlog]
  | .recv => [.kidx, .buffers]
  | .handshake => [.crc, .kidx, .txlog, .buffers, .tries, .fwstr]
  | .readBlock _ _ => [.crc, .kidx, .txlog, .buffers]
  | .writeBlock _ _ => [.crc, .kidx, .txlog, .buffers]
  | .devReset => [.crc, .kidx, .txlog]
  | .frameCmd _ => [.crc, .kidx, .txlog]
  | .frameReply _ _ _ => []
  | .bodyHello => [.crc, .kidx, .txlog]
  | .bodyRead _ _ => [.crc, .kidx, .txlog]
  | .bodyWrite _ _ => [.crc, .kidx, .txlog]
  | .bodyReset => [.crc, .kidx, .txlog]
  | .replyHello _ _ _ => []
  | .replyRead _ _ _ _ => []
  | .replyWriteAck _ _ _ _ _ => []

/-- The register is the same in both states. -/
def SameReg (s t : State) : RegName → Prop
  | .crc => t.crc = s.crc
  | .kidx => t.kidx = s.kidx
  | .timeout => t.timeout = s.timeout
  | .txlog => t.txlog = s.txlog
  | .buffers => t.rxhdr = s.rxhdr ∧ t.rxbody = s.rxbody ∧ t.rxftr = s.rxftr
  | .tries => t.tries = s.tries
  | .fwstr => t.fwstr = s.fwstr ∧ t.fwlen = s.fwlen

/-- The operations that take bytes out of `RXQ` (R29, R40). -/
def receives : Instr → Bool
  | .uartRd _ => true
  | .recv => true
  | .handshake => true
  | .readBlock _ _ => true
  | .writeBlock _ _ => true
  | .reserved => false
  | .obfRst => false
  | .obfByte _ => false
  | .obfMsg _ => false
  | .crcClr => false
  | .crcByte _ => false
  | .crcMsg _ => false
  | .uartSetto _ => false
  | .uartWr _ => false
  | .send _ => false
  | .devReset => false
  | .frameCmd _ => false
  | .frameReply _ _ _ => false
  | .bodyHello => false
  | .bodyRead _ _ => false
  | .bodyWrite _ _ => false
  | .bodyReset => false
  | .replyHello _ _ _ => false
  | .replyRead _ _ _ _ => false
  | .replyWriteAck _ _ _ _ _ => false

/-! ## The environment's choices, script or free value -/

/-- What the environment chooses at the next write, of the bytes `out`. -/
def writeChoice (out : Bytes) (s : State) : WriteDraw := s.writes.head?.getD (Config.freeWrite out s.free)

/-- What the environment chooses at the read after `k` further ones, when it is of `n` bytes. -/
def readChoice (k n : Nat) (s : State) : ReadDraw := (s.reads[k]?).getD (Config.freeRead s.timeout n (s.free + k))

/-- What the environment puts on the line before the next step. -/
def arrivalChoice (s : State) : Bytes := s.arrivals.head?.getD (Config.freeArrival s.free)

/-- What a read of `n` bytes from the queue `q` returns (R113). -/
def got (n : Nat) (q : Bytes) (d : ReadDraw) : Bytes := (q ++ d.inTime).take n

/-- What that read leaves in the queue (R113). -/
def left (n : Nat) (q : Bytes) (d : ReadDraw) : Bytes := (q ++ d.inTime).drop n ++ d.late

/-! ## The end of an operation -/

/-- The end of an operation that returns `r` (R21, R22, R23, R26). -/
def succeeded (r : Result) (s : State) : State :=
  { s with
    busy := false, op := .idle, err := .none, errsub := .none
    errinfo := { exp := Config.freeExp s.free, act := Config.freeAct s.free, off := Config.freeOff s.free }
    free := s.free + 1, resp := .returned r }

/-- The end of an operation that raises `cls(sub, exp, act, off)` (R170). -/
def failed (cls : ErrClass) (sub : ErrSub) (exp act : Nat) (off : Word) (s : State) : State :=
  { s with
    err := cls, errsub := sub, errinfo := { exp := exp, act := act, off := off }
    txstate := .txIdle, rxstate := .rxIdle, op := .idle, busy := false, resp := .raised }

/-! ## What SEND leaves (R121) -/

/-- The bytes of the command frame of `body`, as the table of R61 lists them. -/
def commandFrame (body : Bytes) : Bytes :=
  [0xAB, 0xCD, BitVec.ofNat 8 body.length, 0x00]
    ++ (body ++ [lo8 (crc16 body), hi8 (crc16 body)]).mapIdx (fun i b => b ^^^ Config.key[i % 16])
    ++ [0xDC, 0xBA]

/-- The state when the whole frame of `body` has been written. -/
def afterSend (body : Bytes) (s : State) : State :=
  { s with
    crc := crc16 body, kidx := BitVec.ofNat 4 (body.length + 2)
    txlog := s.txlog ++ commandFrame body
    rxq := s.rxq ++ (writeChoice (commandFrame body) s).arrive
    txstate := .txIdle, txcnt := BitVec.ofNat 9 (body.length + 8)
    writes := s.writes.tail, free := s.free + 1 }

/-- The state when the channel has failed after `k` bytes of the frame of `body`. -/
def afterPartialSend (body : Bytes) (k : Nat) (s : State) : State :=
  { s with
    crc := crc16 body, kidx := BitVec.ofNat 4 (body.length + 2)
    txlog := s.txlog ++ (commandFrame body).take k
    rxq := s.rxq ++ (writeChoice (commandFrame body) s).arrive
    txcnt := BitVec.ofNat 9 k
    writes := s.writes.tail, free := s.free + 1 }

/-- The environment accepts the whole frame of `body`. -/
def SendAccepted (body : Bytes) (s : State) : Prop := (writeChoice (commandFrame body) s).fail = none

/-! ## What RECV finds and leaves (R131) -/

/-- The queue after the header read. -/
def leftAfterHeader (s : State) : Bytes := left 4 s.rxq (readChoice 0 4 s)

/-- The queue after the body read, of `n` bytes. -/
def leftAfterBody (n : Nat) (s : State) : Bytes := left n (leftAfterHeader s) (readChoice 1 n s)

/-- The queue after the footer read. -/
def leftAfterFooter (n : Nat) (s : State) : Bytes := left 4 (leftAfterBody n s) (readChoice 2 4 s)

/-- What arrives during the header read. -/
def arrivedInHeader (s : State) : Bytes := (readChoice 0 4 s).inTime ++ (readChoice 0 4 s).late

/-- What arrives during the header read and the read of `n` body bytes. -/
def arrivedInBody (n : Nat) (s : State) : Bytes :=
  arrivedInHeader s ++ (readChoice 1 n s).inTime ++ (readChoice 1 n s).late

/-- What arrives during all three reads. -/
def arrivedInFooter (n : Nat) (s : State) : Bytes :=
  arrivedInBody n s ++ (readChoice 2 4 s).inTime ++ (readChoice 2 4 s).late

/-- The header read returns `h`. -/
def HeaderRead (s : State) (h : Bytes) : Prop :=
  (readChoice 0 4 s).fail = false ∧ got 4 s.rxq (readChoice 0 4 s) = h

/-- After it, the read of `n` body bytes returns `b`; reading no byte cannot fail. -/
def BodyRead (s : State) (n : Nat) (b : Bytes) : Prop :=
  ((readChoice 1 n s).fail = false ∨ n = 0) ∧ got n (leftAfterHeader s) (readChoice 1 n s) = b

/-- After that, the footer read returns `f`. -/
def FooterRead (s : State) (n : Nat) (f : Bytes) : Prop :=
  (readChoice 2 4 s).fail = false ∧ got 4 (leftAfterBody n s) (readChoice 2 4 s) = f

/-- The line gives a frame RECV accepts (R65): the header, the obfuscated body `b`, any two bytes, the footer magic. -/
structure LineGives (s : State) (b : Bytes) (f0 f1 : Byte) : Prop where
  size   : b.length ≤ 255
  header : HeaderRead s [0xAB, 0xCD, BitVec.ofNat 8 b.length, 0x00]
  body   : BodyRead s b.length b
  footer : FooterRead s b.length [f0, f1, 0xDC, 0xBA]

/-- The first entries of a buffer replaced by `b`. -/
def filled {n : Nat} (v : Vector Byte n) (b : Bytes) : Vector Byte n :=
  Vector.ofFn fun i => if h : i.val < b.length then b[i.val] else v[i]

/-- The state when RECV has accepted that frame. -/
def afterRecv (b : Bytes) (f0 f1 : Byte) (s : State) : State :=
  { s with
    rxq := leftAfterFooter b.length s
    reads := s.reads.drop 3, free := s.free + 3
    rxhdr := #v[0xAB, 0xCD, BitVec.ofNat 8 b.length, 0x00]
    rxbody := filled s.rxbody b
    rxftr := #v[f0, f1, 0xDC, 0xBA]
    rxcnt := BitVec.ofNat 9 (b.length + 8), rxstate := .rxIdle
    kidx := BitVec.ofNat 4 b.length }

/-- The state when the header read has returned `n` bytes. -/
def afterHeaderRead (n : Nat) (s : State) : State :=
  { s with
    rxq := leftAfterHeader s, reads := s.reads.drop 1, free := s.free + 1, rxcnt := BitVec.ofNat 9 n }

/-- The state when a good header of length byte `len` has been read, and then `n` body bytes. -/
def afterBodyRead (len : Byte) (n : Nat) (s : State) : State :=
  { s with
    rxq := leftAfterBody len.toNat s, reads := s.reads.drop 2, free := s.free + 2
    rxhdr := #v[0xAB, 0xCD, len, 0x00], rxcnt := BitVec.ofNat 9 (4 + n) }

/-- The state when a good header of length byte `len` and the whole body `b` have been read, and then `n` footer bytes. -/
def afterFooterRead (len : Byte) (b : Bytes) (n : Nat) (s : State) : State :=
  { s with
    rxq := leftAfterFooter len.toNat s, reads := s.reads.drop 3, free := s.free + 3
    rxhdr := #v[0xAB, 0xCD, len, 0x00], rxbody := filled s.rxbody b
    rxcnt := BitVec.ofNat 9 (4 + len.toNat + n) }

/-- The obfuscated bytes that stand for the reply body `r` on the line (R63, R90). -/
def onLine (r : Bytes) : Bytes := r.mapIdx fun i b => b ^^^ Config.key[i % 16]

/-- One exchange of a composite: `body` is sent whole and a reply frame of the body `r` is accepted. -/
def Exchange (body r : Bytes) (f0 f1 : Byte) (s : State) : Prop :=
  SendAccepted body s ∧ LineGives (afterSend body s) (onLine r) f0 f1

/-- The state after that exchange. -/
def afterExchange (body r : Bytes) (f0 f1 : Byte) (s : State) : State :=
  afterRecv (onLine r) f0 f1 (afterSend body s)

/-! ## HANDSHAKE's retries (R141) -/

/-- `k` attempts in a row with an empty reply, from `s` with `n` attempts left to `t`. -/
def EmptyReplies : Nat → Nat → State → State → Prop
  | 0, _, s, t => t = s
  | k + 1, n, s, t =>
    ∃ f0 f1, Exchange Config.params.helloBody [] f0 f1 s ∧
      EmptyReplies k (n - 1)
        { afterExchange Config.params.helloBody [] f0 f1 s with tries := BitVec.ofNat 3 (n - 1) } t

/-! ## Command bodies, field by field (R69, R70) -/

/-- The READ command body. -/
def readCommand (offset : Word) (length : Byte) : Bytes :=
  Config.opcRead.toList ++ [0x08, 0x00, lo8 offset, hi8 offset, length, Config.rdFlag] ++ Config.trailer.toList

/-- The WRITE command body. -/
def writeCommand (data : Bytes) (offset : Word) : Bytes :=
  Config.opcWrite.toList ++
    [BitVec.ofNat 8 (data.length + 8), 0x00, lo8 offset, hi8 offset, BitVec.ofNat 8 data.length, 0x01]
    ++ Config.trailer.toList ++ data

/-! ## Several operations in turn -/

/-- The answers to the instructions, each run in the state the one before left, and the last state. -/
def execAll : List Instr → State → Option (List Resp × State)
  | [], s => some ([], s)
  | i :: rest, s =>
    match exec i s with
    | .next t =>
      match execAll rest t with
      | some (rs, u) => some (t.resp :: rs, u)
      | none => none
    | _ => none

end Sys2Proof.Safety
end

