-- ==== Sys2Proof/Certificates/Slice0/Obligations.lean ====
section
/-! DEFINITION. The statements for the provers. Each docstring names the rules of spec/ it formalises; where a clause is a
choice of the model or of the spec, the docstring says so and names the log entry or the decision. -/

open Sys2Proof Sys2Proof.Machine Sys2Proof.Safety

/-! ## Reset and the step -/

/-- R27, R190 (decisions D4, D15): the registers after reset that the spec gives a value, field by field. The host has been
answered nothing and no request is waiting (log 16). -/
def Obligations.ResetRegisters : Prop :=
  State.reset.crc = 0x0000 ∧ State.reset.kidx = 0 ∧ State.reset.timeout = ⟨1, 2⟩ ∧
  State.reset.txlog = [] ∧ State.reset.rxq = [] ∧
  State.reset.txstate = .txIdle ∧ State.reset.rxstate = .rxIdle ∧
  State.reset.txcnt = 0 ∧ State.reset.rxcnt = 0 ∧ State.reset.busy = false ∧
  State.reset.err = .none ∧ State.reset.errsub = .none ∧ State.reset.errinfo = ⟨0, 0, 0⟩ ∧
  State.reset.tries = 0 ∧ State.reset.fwlen = 0 ∧ State.reset.op = .idle ∧
  State.reset.resp = .none ∧ State.reset.moves = []

/-- The invariant of the block between operations holds after reset (R16, R17, R22, R24, R25, R26 with R27). -/
def Obligations.ResetMeetsInv : Prop := BlockInv State.reset

/-- Every step keeps the invariant (R16, R17, R21, R22, R24, R25, R26, R211), whatever the environment does. -/
def Obligations.StepKeepsInv : Prop := ∀ s t, BlockInv s → step s = .next t → BlockInv t

/-- A request whose bytes decode to an instruction is run: the step takes it from the queue of requests and puts the
bytes that arrived meanwhile at the tail of `RXQ`; the rest is the instruction's own effect (R52, R116; the request's
bytes are log 2). -/
def Obligations.StepRunsDecodedInstruction : Prop :=
  ∀ s i request rest, s.moves = request :: rest → decode request = .ok i →
    step s = exec i
      { s with
        rxq := s.rxq ++ arrivalChoice s, arrivals := s.arrivals.tail, free := s.free + 1, moves := rest }

/-- R190, R116: with no request waiting the block stays idle, and bytes may arrive. The model's choice (log 14): bytes that
are no request are refused at the boundary, and no register of the block changes. -/
def Obligations.StepWithoutInstruction : Prop :=
  (∀ s, s.moves = [] →
    step s = .next
      { s with rxq := s.rxq ++ arrivalChoice s, arrivals := s.arrivals.tail, free := s.free + 1 }) ∧
  ∀ s e request rest, s.moves = request :: rest → decode request = .error e →
    step s = .next
      { s with
        rxq := s.rxq ++ arrivalChoice s, arrivals := s.arrivals.tail, free := s.free + 1, moves := rest
        resp := .refused .undecodable }

/-- R211, R170, R172: from an idle block every instruction ends in a next state in which the block is idle again. An
operation that was refused leaves `ERR` and `ERRSUB`; one that returned says success; one that raised says an error
whose class is that of its sub-cause. -/
def Obligations.EveryOperationEndsIdle : Prop :=
  ∀ i s, BlockIdle s → invokesBlock i = true →
    ∃ t, exec i s = .next t ∧ BlockIdle t ∧
      ((∃ why, t.resp = .refused why ∧ t.err = s.err ∧ t.errsub = s.errsub ∧ t.errinfo = s.errinfo) ∨
       (∃ r, t.resp = .returned r ∧ t.err = .none ∧ t.errsub = .none) ∨
       (t.resp = .raised ∧ t.err ≠ .none ∧ classOfSub t.errsub = t.err))

/-- R170: error entry. An operation that raises records its error, both sequencers and `OP` go idle, `BUSY` is 0, no result is
returned, and the firmware string is as it was. -/
def Obligations.ErrorEntry : Prop :=
  (∀ e s, endOp (.raised e s) = failed e.cls e.sub e.exp e.act e.off s) ∧
  ∀ i s t, invokesBlock i = true → exec i s = .next t → t.resp = .raised →
    t.txstate = .txIdle ∧ t.rxstate = .rxIdle ∧ t.op = .idle ∧ t.busy = false ∧
    t.err ≠ .none ∧ classOfSub t.errsub = t.err ∧ t.fwstr = s.fwstr ∧ t.fwlen = s.fwlen

/-- R77 (decision D2): the reserved code is refused; no register changes. -/
def Obligations.ReservedIsRefused : Prop :=
  ∀ s, exec .reserved s = .next { s with resp := .refused .reservedOpsel }

/-- R201 (decision D22): a request while `BUSY = 1` is refused; no register changes. -/
def Obligations.RequestWhileBusyIsRefused : Prop :=
  ∀ i s, invokesBlock i = true → s.busy = true → exec i s = .next { s with resp := .refused .busy }

/-- R76, R111 (decisions D4, D8): a request with an operand that cannot be expressed is refused; no register changes and
no byte is written. The first clauses say which operands these are. The model's choice (log 3): a row of incoming bytes
that are not of its form is refused likewise, whatever `BUSY` is. -/
def Obligations.UnfitOperandIsRefused : Prop :=
  (∀ body, (Instr.send body).wellFormed = decide (body.length ≤ 255)) ∧
  (∀ data offset, (Instr.writeBlock data offset).wellFormed = decide (data.length ≤ 243)) ∧
  (∀ t, (Instr.uartSetto t).wellFormed = decide (0 < t.num ∧ 0 < t.den)) ∧
  ∀ i s, (s.busy = true → invokesBlock i = false) → i.wellFormed = false →
    exec i s = .next { s with resp := .refused .operandOutOfType }

/-! ## Encoding -/

/-- Words written out from the table of R75: the operation code in bits 3..0 of the first byte. The operands' bytes and
the codes from 0x10 on are the model's own layout (log 2). -/
def Obligations.KnownWordsDecode : Prop :=
  decode [0x00] = .ok .reserved ∧ decode [0x01] = .ok .obfRst ∧ decode [0x02, 0x44] = .ok (.obfByte 0x44) ∧
  decode [0x05, 0x56] = .ok (.crcByte 0x56) ∧ decode [0x0A, 0x03, 1, 2, 3] = .ok (.send [1, 2, 3]) ∧
  decode [0x0D, 0x80, 0x00, 0x04] = .ok (.readBlock 0x0080 0x04) ∧
  decode [0x0F] = .ok .devReset

/-- Decoding the encoding of an instruction gives it back, with every operand at every value (the layout is log 2). -/
def Obligations.DecodeOfEncode : Prop := ∀ i, decode (encode i) = .ok i

/-! ## Obfuscation codec -/

/-- R91 (decision D1): OBF.RST puts `KIDX` to 0 and changes nothing else but the end of the operation. -/
def Obligations.ObfRstClearsIndex : Prop :=
  ∀ s, s.busy = false → exec .obfRst s = .next (succeeded .none { s with kidx := 0 })

/-- R92: OBF.BYTE returns `b XOR KEY[KIDX]` and advances `KIDX` modulo 16. -/
def Obligations.ObfByteXorsKey : Prop :=
  ∀ s b, s.busy = false → ∃ kidx, kidx.toNat = (s.kidx.toNat + 1) % 16 ∧
    exec (.obfByte b) s =
      .next (succeeded (.byte (b ^^^ Config.key[s.kidx.toNat]'s.kidx.isLt)) { s with kidx := kidx })

/-- R93: OBF.MSG, whose code is 3, returns, for each position `i`, the byte XORed with `KEY[i mod 16]`, leaves
`KIDX = len mod 16`, and cannot fail. -/
def Obligations.ObfMsgIsPositionwise : Prop :=
  ∀ s m, s.busy = false → selector (.obfMsg m) = 0x3 ∧ ∃ kidx, kidx.toNat = m.length % 16 ∧
    exec (.obfMsg m) s =
      .next (succeeded (.bytes (m.mapIdx fun i b => b ^^^ Config.key[i % 16])) { s with kidx := kidx })

/-- R94: OBF.MSG applied to the result of OBF.MSG gives the message back. -/
def Obligations.ObfMsgIsInvolution : Prop :=
  ∀ s m, s.busy = false →
    ∃ out t u, exec (.obfMsg m) s = .next t ∧ t.resp = .returned (.bytes out) ∧
      exec (.obfMsg out) t = .next u ∧ u.resp = .returned (.bytes m)

/-- R95, derived there from R90: the beginning of an obfuscated message is the obfuscated beginning; the rest goes on in
the key where the beginning stopped. -/
def Obligations.ObfPrefixLaw : Prop :=
  ∀ (key : Vector Byte 16) (u v : Bytes),
    (obf key (u ++ v)).take u.length = obf key u ∧
    ∀ j (h : j < v.length), (obf key (u ++ v))[u.length + j]? = some (v[j] ^^^ key[(u.length + j) % 16])

/-- R92: the bytes of a message in turn after OBF.RST give the bytes of the obfuscated message in order. -/
def Obligations.ObfBytesInTurnGiveMessage : Prop :=
  ∀ s (m : Bytes), s.busy = false → ∃ t,
    execAll (.obfRst :: m.map Instr.obfByte) s =
      some (.returned .none :: (m.mapIdx fun i b => Resp.returned (.byte (b ^^^ Config.key[i % 16]))), t)

/-! ## CRC engine -/

/-- R101 (decision D1): CRC.CLR puts `CRC` to 0 and changes nothing else but the end of the operation. -/
def Obligations.CrcClrClears : Prop :=
  ∀ s, s.busy = false → exec .crcClr s = .next (succeeded .none { s with crc := 0x0000 })

/-- R102 (its loop is the spec's passage G1): the byte enters at the top, then eight times the register is shifted left and,
where bit 15 was set, XORed with 0x1021. The result is the register. -/
def Obligations.CrcByteDividesBitSerially : Prop :=
  ∀ s b, s.busy = false →
    ∃ c : Word, c = (fun c : Word => if c.getLsbD 15 then (c <<< 1) ^^^ 0x1021 else c <<< 1)^[8]
        (s.crc ^^^ ((b.setWidth 16 : Word) <<< 8)) ∧
      exec (.crcByte b) s = .next (succeeded (.word c) { s with crc := c })

/-- R103: CRC.MSG runs the bytes through the engine in order from 0x0000; the CRC of no byte is 0x0000, and that of
"123456789" is 0x31C3. -/
def Obligations.CrcMsgRunsBytesInOrder : Prop :=
  (∀ s m, s.busy = false → exec (.crcMsg m) s = .next (succeeded (.word (crc16 m)) { s with crc := crc16 m })) ∧
  (∀ m b, crc16 (m ++ [b]) = crcByte (crc16 m) b) ∧ crc16 [] = 0x0000 ∧
  crc16 [0x31, 0x32, 0x33, 0x34, 0x35, 0x36, 0x37, 0x38, 0x39] = 0x31C3

/-- R101 to R103: the bytes of a message in turn after CRC.CLR leave in `CRC` what CRC.MSG returns. -/
def Obligations.CrcBytesInTurnGiveMessage : Prop :=
  ∀ s (m : Bytes), s.busy = false → ∃ rs t,
    execAll (.crcClr :: m.map Instr.crcByte) s = some (rs, t) ∧ t.crc = crc16 m ∧ rs.length = m.length + 1

/-- R105, derived there: the CRC is linear; zero bytes in front do not change it. -/
def Obligations.CrcIsLinear : Prop :=
  (∀ a b : Bytes, a.length = b.length → crc16 (List.zipWith (· ^^^ ·) a b) = crc16 a ^^^ crc16 b) ∧
  ∀ n m, crc16 (List.replicate n 0 ++ m) = crc16 m

/-- R106, derived there: a message followed by its CRC, the high byte first, has the CRC 0. -/
def Obligations.CrcResidueIsZero : Prop := ∀ m, crc16 (m ++ [hi8 (crc16 m), lo8 (crc16 m)]) = 0x0000

/-! ## UART byte-stream handler -/

/-- R111 (decision D4): UART.SETTO stores the duration. -/
def Obligations.UartSettoStores : Prop :=
  ∀ s t, s.busy = false → 0 < t.num → 0 < t.den →
    exec (.uartSetto t) s = .next (succeeded .none { s with timeout := t })

/-- R112: UART.WR on a channel that accepts the bytes, and of no byte on any channel, appends them to `TXLOG`. -/
def Obligations.UartWrAppends : Prop :=
  ∀ s m, s.busy = false → (writeChoice m s).fail = none ∨ m = [] →
    exec (.uartWr m) s = .next (succeeded .none
      { s with
        txlog := s.txlog ++ m, rxq := s.rxq ++ (writeChoice m s).arrive, writes := s.writes.tail
        free := s.free + 1 })

/-- R112 (decision D19): a channel that fails has let a prefix through. -/
def Obligations.UartWrFails : Prop :=
  ∀ s m k, s.busy = false → (writeChoice m s).fail = some k → m ≠ [] →
    ∃ n, n ≤ m.length ∧ (k ≤ m.length → n = k) ∧
      exec (.uartWr m) s = .next (failed .transportError .writeFail m.length n 0
        { s with
          txlog := s.txlog ++ m.take n, rxq := s.rxq ++ (writeChoice m s).arrive, writes := s.writes.tail
          free := s.free + 1 })

/-- R113: UART.RD returns the first bytes of `RXQ` and of what arrives in time, `n` of them or all there are; it consumes
them. Reading no byte returns at once (decision D4). R114, derived there: where `n` bytes are queued at the call, exactly
these are returned. -/
def Obligations.UartRdReturns : Prop :=
  (∀ s n, s.busy = false → (readChoice 0 n s).fail = false ∨ n = 0 →
    exec (.uartRd n) s = .next
      (succeeded (.bytes ((s.rxq ++ (readChoice 0 n s).inTime).take n))
        { s with
          rxq := (s.rxq ++ (readChoice 0 n s).inTime).drop n ++ (readChoice 0 n s).late
          reads := s.reads.tail, free := s.free + 1 })) ∧
  ∀ s out rest, s.busy = false → s.rxq = out ++ rest → (readChoice 0 out.length s).fail = false →
    ∃ t, exec (.uartRd out.length) s = .next t ∧ t.resp = .returned (.bytes out) ∧ rest <+: t.rxq

/-- R113: a channel that fails consumes nothing. -/
def Obligations.UartRdFails : Prop :=
  ∀ s n, s.busy = false → (readChoice 0 n s).fail = true → n ≠ 0 →
    exec (.uartRd n) s = .next (failed .transportError .readFail n 0 0
      { s with
        rxq := s.rxq ++ (readChoice 0 n s).inTime ++ (readChoice 0 n s).late
        reads := s.reads.tail, free := s.free + 1 })

/-! ## The wire frame and SEND -/

/-- R43: the header of a frame the block sends is 0xAB, 0xCD, the length byte, 0x00 in this order, and the frame ends in 0xDC,
0xBA in this order. The frame is what a SEND that the channel accepts appends to `TXLOG`. -/
def Obligations.FrameMagicOrder : Prop :=
  ∀ s body, s.busy = false → body.length ≤ 255 → SendAccepted body s →
    ∃ t frame, exec (.send body) s = .next t ∧ t.txlog = s.txlog ++ frame ∧
      (∃ n : Byte, n.toNat = body.length ∧ [0xAB, 0xCD, n, 0x00] <+: frame) ∧ [0xDC, 0xBA] <:+ frame

/-- R61 (decision D3): the table of a command frame, position by position. -/
def Obligations.CommandFrameLayout : Prop :=
  ∀ (key : Vector Byte 16) (body : Bytes), body.length ≤ 255 →
    (encodeFrame key body).length = body.length + 8 ∧
    (encodeFrame key body)[0]? = some 0xAB ∧ (encodeFrame key body)[1]? = some 0xCD ∧
    (∃ n : Byte, n.toNat = body.length ∧ (encodeFrame key body)[2]? = some n) ∧
    (encodeFrame key body)[3]? = some 0x00 ∧
    (∀ i (h : i < body.length), (encodeFrame key body)[4 + i]? = some (body[i] ^^^ key[i % 16])) ∧
    (encodeFrame key body)[4 + body.length]? = some (lo8 (crc16 body) ^^^ key[body.length % 16]) ∧
    (encodeFrame key body)[5 + body.length]? = some (hi8 (crc16 body) ^^^ key[(body.length + 1) % 16]) ∧
    (encodeFrame key body)[6 + body.length]? = some 0xDC ∧ (encodeFrame key body)[7 + body.length]? = some 0xBA

/-- R121, R122: SEND of a body of at most 255 bytes, on a channel that accepts the frame. `CRC` and `KIDX` are what R29 says
they are after SEND. -/
def Obligations.SendWritesFrame : Prop :=
  ∀ s body, s.busy = false → body.length ≤ 255 → SendAccepted body s →
    exec (.send body) s = .next (succeeded .none (afterSend body s))

/-- R121, R112 (decision D19): SEND on a channel that fails after `k` bytes; the prefix stays sent. -/
def Obligations.SendFailsAfterPrefix : Prop :=
  ∀ s body k, s.busy = false → body.length ≤ 255 → (writeChoice (commandFrame body) s).fail = some k →
    ∃ n, n ≤ body.length + 8 ∧ (k ≤ body.length + 8 → n = k) ∧
      exec (.send body) s = .next
        (failed .transportError .writeFail (body.length + 8) n 0 (afterPartialSend body n s))

/-- The model's choice (log 3): the rows of outgoing byte strings put the frame of their body on the line as SEND does. The
bodies are those of R61, R68, R69, R70 and R71 (decision D16). -/
def Obligations.CommandRowsAreSent : Prop :=
  (∀ s body, s.busy = false → body.length ≤ 255 → SendAccepted body s →
    exec (.frameCmd body) s = .next (succeeded .none (afterSend body s))) ∧
  (∀ s, s.busy = false → SendAccepted Config.params.helloBody s →
    exec .bodyHello s = .next (succeeded .none (afterSend Config.params.helloBody s))) ∧
  (∀ s offset length, s.busy = false → SendAccepted (readCommand offset length) s →
    exec (.bodyRead offset length) s = .next (succeeded .none (afterSend (readCommand offset length) s))) ∧
  (∀ s data offset, s.busy = false → data.length ≤ 243 → SendAccepted (writeCommand data offset) s →
    exec (.bodyWrite data offset) s = .next (succeeded .none (afterSend (writeCommand data offset) s))) ∧
  (∀ s, s.busy = false → SendAccepted Config.params.resetBody s →
    exec .bodyReset s = .next (succeeded .none (afterSend Config.params.resetBody s)))

/-- The model's choice (log 3): the rows of incoming byte strings put a reply frame (R63) at the tail of `RXQ` (R15, R116)
and change nothing else. The bodies are those of R63, R72, R73 and R74; a read reply shorter than eight bytes has no data. -/
def Obligations.ReplyRowsReachTheQueue : Prop :=
  (∀ s body f0 f1, body.length ≤ 255 →
    exec (.frameReply body f0 f1) s = .next
      { s with rxq := s.rxq ++
          ([0xAB, 0xCD, BitVec.ofNat 8 body.length, 0x00] ++ onLine body ++ [f0, f1, 0xDC, 0xBA]) }) ∧
  (∀ s body f0 f1, body.length ≤ 255 →
    exec (.replyHello body f0 f1) s = .next
      { s with rxq := s.rxq ++
          ([0xAB, 0xCD, BitVec.ofNat 8 body.length, 0x00] ++ onLine body ++ [f0, f1, 0xDC, 0xBA]) }) ∧
  (∀ s head data f0 f1, (head.length = 8 ∧ data.length ≤ 247) ∨ (head.length < 8 ∧ data = []) →
    exec (.replyRead head data f0 f1) s = .next
      { s with rxq := s.rxq ++
          ([0xAB, 0xCD, BitVec.ofNat 8 (head.length + data.length), 0x00] ++ onLine (head ++ data)
            ++ [f0, f1, 0xDC, 0xBA]) }) ∧
  (∀ s m1 m2 m3 offset tail f0 f1, tail.length ≤ 249 →
    exec (.replyWriteAck [m1, m2, m3] offset tail f0 f1) s = .next
      { s with rxq := s.rxq ++
          ([0xAB, 0xCD, BitVec.ofNat 8 (6 + tail.length), 0x00]
            ++ onLine ([Config.ackWrite, m1, m2, m3, lo8 offset, hi8 offset] ++ tail)
            ++ [f0, f1, 0xDC, 0xBA]) })

/-! ## RECV -/

/-- R131, R133, R134, R135: where the line gives a frame that passes the checks, RECV returns the de-obfuscated body, whatever
the two footer bytes before the magic are. -/
def Obligations.RecvReturnsBody : Prop :=
  ∀ s b f0 f1, s.busy = false → LineGives s b f0 f1 →
    exec .recv s = .next
      (succeeded (.bytes (b.mapIdx fun i x => x ^^^ Config.key[i % 16])) (afterRecv b f0 f1 s))

/-- R135: RECV computes no CRC and compares none. Whatever the body bytes on the line are, and whatever the two bytes are
where a command has its CRC, the body is returned as good; it has as many bytes as the length byte says. -/
def Obligations.RecvChecksNoCrc : Prop :=
  ∀ s b f0 f1, s.busy = false → LineGives s b f0 f1 →
    ∃ t body, exec .recv s = .next t ∧ t.resp = .returned (.bytes body) ∧ t.err = .none ∧ t.crc = s.crc ∧
      body.length = t.rxhdr[2].toNat ∧ ∀ i (h : i < b.length), body[i]? = some (b[i] ^^^ Config.key[i % 16])

/-- R131, R167 (decision D13): the checks of the header read, in order. -/
def Obligations.RecvRejectsHeader : Prop :=
  (∀ s h, s.busy = false → HeaderRead s h → h.length < 4 →
    exec .recv s = .next (failed .framingError .shortHeader 4 h.length 0 (afterHeaderRead h.length s))) ∧
  (∀ s h0 h1 h2 h3, s.busy = false → HeaderRead s [h0, h1, h2, h3] → ¬(h0 = 0xAB ∧ h1 = 0xCD) →
    exec .recv s = .next
      (failed .framingError .badHeaderMagic 0xABCD (256 * h0.toNat + h1.toNat) 0 (afterHeaderRead 4 s))) ∧
  (∀ s h2 h3, s.busy = false → HeaderRead s [0xAB, 0xCD, h2, h3] → h3 ≠ 0x00 →
    exec .recv s = .next (failed .framingError .badHeaderRsvd 0x00 h3.toNat 0 (afterHeaderRead 4 s)))

/-- R131: a body shorter than the length byte says; a footer that is short; a footer whose magic is wrong. A footer of four
bytes is kept in `RXFTR`. -/
def Obligations.RecvRejectsBodyOrFooter : Prop :=
  (∀ s len b, s.busy = false → HeaderRead s [0xAB, 0xCD, len, 0x00] → BodyRead s len.toNat b →
    b.length < len.toNat →
    exec .recv s = .next
      (failed .framingError .shortBody len.toNat b.length 0 (afterBodyRead len b.length s))) ∧
  (∀ s len b f, s.busy = false → HeaderRead s [0xAB, 0xCD, len, 0x00] → BodyRead s len.toNat b →
    b.length = len.toNat → FooterRead s len.toNat f → f.length < 4 →
    exec .recv s = .next
      (failed .framingError .shortFooter 4 f.length 0 (afterFooterRead len b f.length s))) ∧
  (∀ s len b f0 f1 f2 f3, s.busy = false → HeaderRead s [0xAB, 0xCD, len, 0x00] → BodyRead s len.toNat b →
    b.length = len.toNat → FooterRead s len.toNat [f0, f1, f2, f3] → ¬(f2 = 0xDC ∧ f3 = 0xBA) →
    exec .recv s = .next
      (failed .framingError .badFooterMagic 0xDCBA (256 * f2.toNat + f3.toNat) 0
        { afterFooterRead len b 4 s with rxftr := #v[f0, f1, f2, f3] }))

/-- R115: silence in any of RECV's three reads is a short read and ends in a framing error; a failure of the channel there
ends in a transport error, whatever had arrived. The sub-causes and the report are R131's and R163's (decision D13), and
that a failed read consumes nothing is R113's (decision D19). -/
def Obligations.SilenceAndFailureDiffer : Prop :=
  (∀ s, s.busy = false → HeaderRead s [] →
    ∃ t, exec .recv s = .next t ∧ t.err = .framingError ∧ t.errsub = .shortHeader) ∧
  (∀ s len, s.busy = false → HeaderRead s [0xAB, 0xCD, len, 0x00] → len ≠ 0 → BodyRead s len.toNat [] →
    ∃ t, exec .recv s = .next t ∧ t.err = .framingError ∧ t.errsub = .shortBody) ∧
  (∀ s len b, s.busy = false → HeaderRead s [0xAB, 0xCD, len, 0x00] → BodyRead s len.toNat b →
    b.length = len.toNat → FooterRead s len.toNat [] →
    ∃ t, exec .recv s = .next t ∧ t.err = .framingError ∧ t.errsub = .shortFooter) ∧
  (∀ s, s.busy = false → (readChoice 0 4 s).fail = true →
    ∃ t, exec .recv s = .next t ∧ t.err = .transportError ∧ t.errsub = .readFail ∧ t.errinfo = ⟨4, 0, 0⟩ ∧
      t.rxq = s.rxq ++ (readChoice 0 4 s).inTime ++ (readChoice 0 4 s).late) ∧
  (∀ s len, s.busy = false → HeaderRead s [0xAB, 0xCD, len, 0x00] → len ≠ 0 →
    (readChoice 1 len.toNat s).fail = true →
    ∃ t, exec .recv s = .next t ∧ t.err = .transportError ∧ t.errsub = .readFail ∧ t.errinfo = ⟨len.toNat, 0, 0⟩ ∧
      t.rxq = leftAfterHeader s ++ (readChoice 1 len.toNat s).inTime ++ (readChoice 1 len.toNat s).late) ∧
  (∀ s len b, s.busy = false → HeaderRead s [0xAB, 0xCD, len, 0x00] → BodyRead s len.toNat b →
    b.length = len.toNat → (readChoice 2 4 s).fail = true →
    ∃ t, exec .recv s = .next t ∧ t.err = .transportError ∧ t.errsub = .readFail ∧ t.errinfo = ⟨4, 0, 0⟩ ∧
      t.rxq = leftAfterBody len.toNat s ++ (readChoice 2 4 s).inTime ++ (readChoice 2 4 s).late)

/-- R136, derived there: how many bytes a RECV has consumed, by how it ended; what had arrived and is not consumed is left
in order. -/
def Obligations.RecvConsumptionTable : Prop :=
  ∀ s t, s.busy = false → exec .recv s = .next t →
    match t.errsub with
    | .none => ∃ consumed, s.rxq ++ arrivedInFooter t.rxhdr[2].toNat s = consumed ++ t.rxq ∧
        consumed.length = 8 + t.rxhdr[2].toNat
    | .shortHeader => ∃ consumed, s.rxq ++ arrivedInHeader s = consumed ++ t.rxq ∧
        consumed.length = t.errinfo.act ∧ t.errinfo.act < 4
    | .badHeaderMagic => ∃ consumed, s.rxq ++ arrivedInHeader s = consumed ++ t.rxq ∧ consumed.length = 4
    | .badHeaderRsvd => ∃ consumed, s.rxq ++ arrivedInHeader s = consumed ++ t.rxq ∧ consumed.length = 4
    | .shortBody => ∃ consumed, s.rxq ++ arrivedInBody t.rxhdr[2].toNat s = consumed ++ t.rxq ∧
        consumed.length = 4 + t.errinfo.act ∧ t.errinfo.act < t.rxhdr[2].toNat
    | .shortFooter => ∃ consumed, s.rxq ++ arrivedInFooter t.rxhdr[2].toNat s = consumed ++ t.rxq ∧
        consumed.length = 4 + t.rxhdr[2].toNat + t.errinfo.act ∧ t.errinfo.act < 4
    | .badFooterMagic => ∃ consumed, s.rxq ++ arrivedInFooter t.rxhdr[2].toNat s = consumed ++ t.rxq ∧
        consumed.length = 8 + t.rxhdr[2].toNat
    | _ => t.errsub = .readFail

/-- R124: RECV of the bytes of `ENCODE(B)` returns `B`, whatever follows them in the queue, and leaves what follows. -/
def Obligations.RecvOfSentFrameReturnsBody : Prop :=
  ∀ s body rest, s.busy = false → body.length ≤ 255 → s.rxq = encodeFrame Config.key body ++ rest →
    (readChoice 0 4 s).fail = false → (readChoice 1 body.length s).fail = false →
    (readChoice 2 4 s).fail = false →
    ∃ t, exec .recv s = .next t ∧ t.resp = .returned (.bytes body) ∧ t.err = .none ∧ rest <+: t.rxq

/-- R130: on which byte strings `DECODE` is defined and what it is there; `DECODE(ENCODE(B)) = B`; the two bytes before the
footer magic do not matter to it. -/
def Obligations.DecodeFrameOfEncodeFrame : Prop :=
  (∀ (key : Vector Byte 16) (w d : Bytes), decodeFrame key w = some d ↔
    ∃ (n : Byte) (b : Bytes) (f0 f1 : Byte), b.length = n.toNat ∧
      w = [0xAB, 0xCD, n, 0x00] ++ b ++ [f0, f1, 0xDC, 0xBA] ∧ d = b.mapIdx fun i x => x ^^^ key[i % 16]) ∧
  ∀ (key : Vector Byte 16) (body : Bytes), body.length ≤ 255 → decodeFrame key (encodeFrame key body) = some body

/-! ## HANDSHAKE -/

/-- R142: the extracted string is the longest run of bytes in 0x20..0x7E from position 4 on, cut at 18. Where there is none, as
in a reply of up to four bytes, HANDSHAKE ends in EMPTY_FWSTRING. -/
def Obligations.FwExtractTakesPrintableRun : Prop :=
  (∀ r, (fwExtract r).length ≤ 18 ∧ fwExtract r <+: r.drop 4 ∧
    (∀ b ∈ fwExtract r, 0x20 ≤ b.toNat ∧ b.toNat ≤ 0x7E) ∧
    ((fwExtract r).length = 18 ∨ ∀ b, r[4 + (fwExtract r).length]? = some b → b.toNat < 0x20 ∨ 0x7E < b.toNat)) ∧
  (∀ r, r.length ≤ 4 → fwExtract r = []) ∧
  ∀ s r f0 f1, s.busy = false → Exchange Config.params.helloBody r f0 f1 s → r ≠ [] → fwExtract r = [] →
    ∃ t, exec .handshake s = .next t ∧ t.err = .initializationError ∧ t.errsub = .emptyFwstring

/-- R140, R141 (decisions D9, D10): up to four empty replies, then a reply with a firmware string: HANDSHAKE returns the
string and commits it. `TRIES` is what is left of 5. -/
def Obligations.HandshakeReturnsFirmwareString : Prop :=
  ∀ s u k r f0 f1, s.busy = false → k ≤ 4 → EmptyReplies k 5 { s with tries := 5 } u →
    Exchange Config.params.helloBody r f0 f1 u → r ≠ [] → fwExtract r ≠ [] →
    exec .handshake s = .next
      (succeeded (.bytes (fwExtract r))
        { afterExchange Config.params.helloBody r f0 f1 u with
          fwstr := filled s.fwstr (fwExtract r), fwlen := BitVec.ofNat 5 (fwExtract r).length
          tries := BitVec.ofNat 3 (5 - k) })

/-- R140, R141: a reply that is not empty and holds no firmware string ends HANDSHAKE; nothing is committed. -/
def Obligations.HandshakeRejectsEmptyString : Prop :=
  ∀ s u k r f0 f1, s.busy = false → k ≤ 4 → EmptyReplies k 5 { s with tries := 5 } u →
    Exchange Config.params.helloBody r f0 f1 u → r ≠ [] → fwExtract r = [] →
    exec .handshake s = .next
      (failed .initializationError .emptyFwstring 1 0 0 (afterExchange Config.params.helloBody r f0 f1 u))

/-- R140, R141 (decisions D9, D10): five empty replies, and no sixth attempt is made. -/
def Obligations.HandshakeGivesUpAfterFive : Prop :=
  ∀ s u, s.busy = false → EmptyReplies 5 5 { s with tries := 5 } u →
    exec .handshake s = .next (failed .initializationError .noReply 5 5 0 u)

/-- R141 (decision D9), R148: an error of SEND or of RECV, in whichever attempt, ends HANDSHAKE as it ends SEND or RECV. -/
def Obligations.HandshakeDoesNotRetryErrors : Prop :=
  (∀ s u t k, s.busy = false → k ≤ 4 → EmptyReplies k 5 { s with tries := 5 } u →
    exec (.send Config.params.helloBody) u = .next t → t.resp = .raised →
    exec .handshake s = .next t) ∧
  (∀ s u t k, s.busy = false → k ≤ 4 → EmptyReplies k 5 { s with tries := 5 } u →
    SendAccepted Config.params.helloBody u →
    exec .recv (afterSend Config.params.helloBody u) = .next t → t.resp = .raised →
    exec .handshake s = .next t)

/-- R25, R140, R171 (decision D24): the firmware string changes only when a HANDSHAKE returns, and then it is the string
returned. -/
def Obligations.FirmwareStringOnlyFromHandshake : Prop :=
  ∀ i s t, exec i s = .next t →
    (t.fwstr = s.fwstr ∧ t.fwlen = s.fwlen) ∨
    (i = .handshake ∧ ∃ fw, t.resp = .returned (.bytes fw) ∧ t.fwlen.toNat = fw.length ∧ 1 ≤ fw.length ∧
      ∀ j (h : j < 18) (h' : j < fw.length), t.fwstr[j] = fw[j])

/-! ## READ_BLOCK, WRITE_BLOCK, DEV_RESET -/

/-- R143 (decision D16 for the bytes of the command): READ_BLOCK whose reply holds `length` bytes from position 8 on. -/
def Obligations.ReadBlockReturnsData : Prop :=
  ∀ s offset length r f0 f1, s.busy = false → Exchange (readCommand offset length) r f0 f1 s →
    (r.drop 8).length = length.toNat →
    exec (.readBlock offset length) s = .next
      (succeeded (.bytes (r.drop 8)) (afterExchange (readCommand offset length) r f0 f1 s))

/-- R143 (decision D11): READ_BLOCK whose reply holds another number of data bytes, fewer or more. -/
def Obligations.ReadBlockRejectsLength : Prop :=
  ∀ s offset length r f0 f1, s.busy = false → Exchange (readCommand offset length) r f0 f1 s →
    (r.drop 8).length ≠ length.toNat →
    exec (.readBlock offset length) s = .next
      (failed .incompleteTransferError .lengthMismatch length.toNat (r.drop 8).length offset
        (afterExchange (readCommand offset length) r f0 f1 s))

/-- R144, derived there: a READ_BLOCK of more than 247 bytes never returns. -/
def Obligations.ReadBlockOver247NeverReturns : Prop :=
  ∀ s offset length t, s.busy = false → 247 < length.toNat →
    exec (.readBlock offset length) s = .next t → t.resp = .raised

/-- R145 (decision D16 for the bytes of the command): WRITE_BLOCK whose acknowledgement passes the three checks. -/
def Obligations.WriteBlockAccepted : Prop :=
  ∀ s data offset m1 m2 m3 tail f0 f1, s.busy = false → data.length ≤ 243 →
    Exchange (writeCommand data offset) ([Config.ackWrite, m1, m2, m3, lo8 offset, hi8 offset] ++ tail) f0 f1 s →
    exec (.writeBlock data offset) s = .next
      (succeeded .none (afterExchange (writeCommand data offset)
        ([Config.ackWrite, m1, m2, m3, lo8 offset, hi8 offset] ++ tail) f0 f1 s))

/-- R145, R167 (decisions D12, D13): the three checks of the acknowledgement, in order. -/
def Obligations.WriteBlockRejectsAck : Prop :=
  (∀ s data offset r f0 f1, s.busy = false → data.length ≤ 243 →
    Exchange (writeCommand data offset) r f0 f1 s → r.length < 6 →
    exec (.writeBlock data offset) s = .next
      (failed .protocolError .shortAck 6 r.length offset (afterExchange (writeCommand data offset) r f0 f1 s))) ∧
  (∀ s data offset r0 r1 r2 r3 r4 r5 tail f0 f1, s.busy = false → data.length ≤ 243 →
    Exchange (writeCommand data offset) ([r0, r1, r2, r3, r4, r5] ++ tail) f0 f1 s → r0 ≠ Config.ackWrite →
    exec (.writeBlock data offset) s = .next
      (failed .protocolError .badAckOpcode Config.ackWrite.toNat r0.toNat offset
        (afterExchange (writeCommand data offset) ([r0, r1, r2, r3, r4, r5] ++ tail) f0 f1 s))) ∧
  (∀ s data offset r1 r2 r3 r4 r5 tail f0 f1, s.busy = false → data.length ≤ 243 →
    Exchange (writeCommand data offset) ([Config.ackWrite, r1, r2, r3, r4, r5] ++ tail) f0 f1 s →
    ¬(r4 = lo8 offset ∧ r5 = hi8 offset) →
    exec (.writeBlock data offset) s = .next
      (failed .protocolError .badAckOffset offset.toNat (r4.toNat + 256 * r5.toNat) offset
        (afterExchange (writeCommand data offset) ([Config.ackWrite, r1, r2, r3, r4, r5] ++ tail) f0 f1 s)))

/-- R148: READ_BLOCK and WRITE_BLOCK stop at an error of SEND, and at an error of RECV after it, and report it as their own
with their offset added. -/
def Obligations.CompositesPassErrorsWithOffset : Prop :=
  (∀ s offset length t, s.busy = false →
    exec (.send (readCommand offset length)) s = .next t → t.resp = .raised →
    exec (.readBlock offset length) s = .next { t with errinfo := { t.errinfo with off := offset } }) ∧
  (∀ s offset length t, s.busy = false → SendAccepted (readCommand offset length) s →
    exec .recv (afterSend (readCommand offset length) s) = .next t → t.resp = .raised →
    exec (.readBlock offset length) s = .next { t with errinfo := { t.errinfo with off := offset } }) ∧
  (∀ s data offset t, s.busy = false → data.length ≤ 243 →
    exec (.send (writeCommand data offset)) s = .next t → t.resp = .raised →
    exec (.writeBlock data offset) s = .next { t with errinfo := { t.errinfo with off := offset } }) ∧
  (∀ s data offset t, s.busy = false → data.length ≤ 243 → SendAccepted (writeCommand data offset) s →
    exec .recv (afterSend (writeCommand data offset) s) = .next t → t.resp = .raised →
    exec (.writeBlock data offset) s = .next { t with errinfo := { t.errinfo with off := offset } })

/-- R147: DEV_RESET, whose code is 15, is SEND of `RESET_BODY`. It reads nothing: a reply that arrives stays in `RXQ`. -/
def Obligations.DevResetSendsAndReadsNothing : Prop :=
  selector .devReset = 0xF ∧
  (∀ s, exec .devReset s = exec (.send Config.params.resetBody) s) ∧
  (∀ s, s.busy = false → SendAccepted Config.params.resetBody s →
    exec .devReset s = .next (succeeded .none (afterSend Config.params.resetBody s))) ∧
  ∀ s t, exec .devReset s = .next t →
    t.reads = s.reads ∧ s.rxq <+: t.rxq ∧ (t.resp = .raised → t.err = .transportError)

/-! ## Rules of the whole machine -/

/-- R164's table: an operation that raises ends in one of its own error classes. -/
def Obligations.OperationsRaiseTheirOwnClasses : Prop :=
  ∀ i s t, invokesBlock i = true → exec i s = .next t → t.resp = .raised → t.err ∈ mayRaise i

/-- R15, R40, R48, R51: `TXLOG` only grows at its end, whatever a step does. An instruction that does not receive leaves what
is in `RXQ` there; one that does takes bytes from the head only: UART.RD at most the number asked, RECV and the block
commands as many as `RXCNT` says (R17, R132; that it keeps the last count is log 10), HANDSHAKE at most five frames (R141). -/
def Obligations.StreamsKeepTheirOrder : Prop :=
  (∀ s t, step s = .next t → s.txlog <+: t.txlog) ∧
  ∀ i s t, exec i s = .next t →
    (receives i = false → s.rxq <+: t.rxq) ∧
    (∀ n, i = .uartRd n → ∃ k, k ≤ n ∧ s.rxq.drop k <+: t.rxq) ∧
    ((i = .recv ∨ (∃ o l, i = .readBlock o l) ∨ ∃ d o, i = .writeBlock d o) →
      s.rxq <+: t.rxq ∨ s.rxq.drop t.rxcnt.toNat <+: t.rxq) ∧
    (i = .handshake → ∃ k, k ≤ 5 * 263 ∧ s.rxq.drop k <+: t.rxq)

/-- R29: a register is written only by the operations its column of the table marks. Nothing an instruction does touches the
requests to come. -/
def Obligations.RegistersKeepTheirWriters : Prop :=
  ∀ i s t, exec i s = .next t →
    (∀ r, r ∉ mayWrite i → SameReg s t r) ∧ t.moves = s.moves ∧ t.arrivals = s.arrivals

/-- R29, R30: what the host may read while `BUSY = 0`; `FWSTR[i]` is readable for `i < FWLEN` only, and a read beyond it is
refused, which R30 allows beside a fault (log 20). A read while `BUSY = 1` is refused. -/
def Obligations.HostReadsReportRegisters : Prop :=
  (∀ s, s.busy = false →
    hostRead .err s = .cls s.err ∧ hostRead .errsub s = .sub s.errsub ∧
    hostRead .errinfo s = .info s.errinfo ∧ hostRead .fwlen s = .len s.fwlen ∧
    (∀ i (h : i < 18), i < s.fwlen.toNat → hostRead (.fwstr i) s = .byte s.fwstr[i]) ∧
    ∀ i, s.fwlen.toNat ≤ i → hostRead (.fwstr i) s = .refused .noValue) ∧
  ∀ r s, s.busy = true → hostRead r s = .refused .busy
end

