-- ==== Sys2Proof/Laws/State.lean ====
section
/-! SUPPORT. What each named update of the state leaves in each field, so that no later proof unfolds a record update. -/

namespace Sys2Proof.Machine

@[simp] theorem refuse_crc (why : RefuseWhy) (s : State) : (refuse why s).crc = s.crc := rfl
@[simp] theorem refuse_kidx (why : RefuseWhy) (s : State) : (refuse why s).kidx = s.kidx := rfl
@[simp] theorem refuse_timeout (why : RefuseWhy) (s : State) : (refuse why s).timeout = s.timeout := rfl
@[simp] theorem refuse_txlog (why : RefuseWhy) (s : State) : (refuse why s).txlog = s.txlog := rfl
@[simp] theorem refuse_rxq (why : RefuseWhy) (s : State) : (refuse why s).rxq = s.rxq := rfl
@[simp] theorem refuse_txstate (why : RefuseWhy) (s : State) : (refuse why s).txstate = s.txstate := rfl
@[simp] theorem refuse_rxstate (why : RefuseWhy) (s : State) : (refuse why s).rxstate = s.rxstate := rfl
@[simp] theorem refuse_txcnt (why : RefuseWhy) (s : State) : (refuse why s).txcnt = s.txcnt := rfl
@[simp] theorem refuse_rxcnt (why : RefuseWhy) (s : State) : (refuse why s).rxcnt = s.rxcnt := rfl
@[simp] theorem refuse_rxhdr (why : RefuseWhy) (s : State) : (refuse why s).rxhdr = s.rxhdr := rfl
@[simp] theorem refuse_rxbody (why : RefuseWhy) (s : State) : (refuse why s).rxbody = s.rxbody := rfl
@[simp] theorem refuse_rxftr (why : RefuseWhy) (s : State) : (refuse why s).rxftr = s.rxftr := rfl
@[simp] theorem refuse_busy (why : RefuseWhy) (s : State) : (refuse why s).busy = s.busy := rfl
@[simp] theorem refuse_err (why : RefuseWhy) (s : State) : (refuse why s).err = s.err := rfl
@[simp] theorem refuse_errsub (why : RefuseWhy) (s : State) : (refuse why s).errsub = s.errsub := rfl
@[simp] theorem refuse_errinfo (why : RefuseWhy) (s : State) : (refuse why s).errinfo = s.errinfo := rfl
@[simp] theorem refuse_tries (why : RefuseWhy) (s : State) : (refuse why s).tries = s.tries := rfl
@[simp] theorem refuse_fwstr (why : RefuseWhy) (s : State) : (refuse why s).fwstr = s.fwstr := rfl
@[simp] theorem refuse_fwlen (why : RefuseWhy) (s : State) : (refuse why s).fwlen = s.fwlen := rfl
@[simp] theorem refuse_op (why : RefuseWhy) (s : State) : (refuse why s).op = s.op := rfl
@[simp] theorem refuse_resp (why : RefuseWhy) (s : State) : (refuse why s).resp = .refused why := rfl
@[simp] theorem refuse_moves (why : RefuseWhy) (s : State) : (refuse why s).moves = s.moves := rfl
@[simp] theorem refuse_arrivals (why : RefuseWhy) (s : State) : (refuse why s).arrivals = s.arrivals := rfl
@[simp] theorem refuse_writes (why : RefuseWhy) (s : State) : (refuse why s).writes = s.writes := rfl
@[simp] theorem refuse_reads (why : RefuseWhy) (s : State) : (refuse why s).reads = s.reads := rfl
@[simp] theorem refuse_free (why : RefuseWhy) (s : State) : (refuse why s).free = s.free := rfl

@[simp] theorem beginOp_crc (name : OpName) (s : State) : (beginOp name s).crc = s.crc := rfl
@[simp] theorem beginOp_kidx (name : OpName) (s : State) : (beginOp name s).kidx = s.kidx := rfl
@[simp] theorem beginOp_timeout (name : OpName) (s : State) : (beginOp name s).timeout = s.timeout := rfl
@[simp] theorem beginOp_txlog (name : OpName) (s : State) : (beginOp name s).txlog = s.txlog := rfl
@[simp] theorem beginOp_rxq (name : OpName) (s : State) : (beginOp name s).rxq = s.rxq := rfl
@[simp] theorem beginOp_txstate (name : OpName) (s : State) : (beginOp name s).txstate = s.txstate := rfl
@[simp] theorem beginOp_rxstate (name : OpName) (s : State) : (beginOp name s).rxstate = s.rxstate := rfl
@[simp] theorem beginOp_txcnt (name : OpName) (s : State) : (beginOp name s).txcnt = s.txcnt := rfl
@[simp] theorem beginOp_rxcnt (name : OpName) (s : State) : (beginOp name s).rxcnt = s.rxcnt := rfl
@[simp] theorem beginOp_rxhdr (name : OpName) (s : State) : (beginOp name s).rxhdr = s.rxhdr := rfl
@[simp] theorem beginOp_rxbody (name : OpName) (s : State) : (beginOp name s).rxbody = s.rxbody := rfl
@[simp] theorem beginOp_rxftr (name : OpName) (s : State) : (beginOp name s).rxftr = s.rxftr := rfl
@[simp] theorem beginOp_busy (name : OpName) (s : State) : (beginOp name s).busy = true := rfl
@[simp] theorem beginOp_err (name : OpName) (s : State) : (beginOp name s).err = s.err := rfl
@[simp] theorem beginOp_errsub (name : OpName) (s : State) : (beginOp name s).errsub = s.errsub := rfl
@[simp] theorem beginOp_errinfo (name : OpName) (s : State) : (beginOp name s).errinfo = s.errinfo := rfl
@[simp] theorem beginOp_tries (name : OpName) (s : State) : (beginOp name s).tries = s.tries := rfl
@[simp] theorem beginOp_fwstr (name : OpName) (s : State) : (beginOp name s).fwstr = s.fwstr := rfl
@[simp] theorem beginOp_fwlen (name : OpName) (s : State) : (beginOp name s).fwlen = s.fwlen := rfl
@[simp] theorem beginOp_op (name : OpName) (s : State) : (beginOp name s).op = name := rfl
@[simp] theorem beginOp_resp (name : OpName) (s : State) : (beginOp name s).resp = s.resp := rfl
@[simp] theorem beginOp_moves (name : OpName) (s : State) : (beginOp name s).moves = s.moves := rfl
@[simp] theorem beginOp_arrivals (name : OpName) (s : State) : (beginOp name s).arrivals = s.arrivals := rfl
@[simp] theorem beginOp_writes (name : OpName) (s : State) : (beginOp name s).writes = s.writes := rfl
@[simp] theorem beginOp_reads (name : OpName) (s : State) : (beginOp name s).reads = s.reads := rfl
@[simp] theorem beginOp_free (name : OpName) (s : State) : (beginOp name s).free = s.free := rfl

@[simp] theorem returnOp_crc (r : Result) (s : State) : (returnOp r s).crc = s.crc := rfl
@[simp] theorem returnOp_kidx (r : Result) (s : State) : (returnOp r s).kidx = s.kidx := rfl
@[simp] theorem returnOp_timeout (r : Result) (s : State) : (returnOp r s).timeout = s.timeout := rfl
@[simp] theorem returnOp_txlog (r : Result) (s : State) : (returnOp r s).txlog = s.txlog := rfl
@[simp] theorem returnOp_rxq (r : Result) (s : State) : (returnOp r s).rxq = s.rxq := rfl
@[simp] theorem returnOp_txstate (r : Result) (s : State) : (returnOp r s).txstate = s.txstate := rfl
@[simp] theorem returnOp_rxstate (r : Result) (s : State) : (returnOp r s).rxstate = s.rxstate := rfl
@[simp] theorem returnOp_txcnt (r : Result) (s : State) : (returnOp r s).txcnt = s.txcnt := rfl
@[simp] theorem returnOp_rxcnt (r : Result) (s : State) : (returnOp r s).rxcnt = s.rxcnt := rfl
@[simp] theorem returnOp_rxhdr (r : Result) (s : State) : (returnOp r s).rxhdr = s.rxhdr := rfl
@[simp] theorem returnOp_rxbody (r : Result) (s : State) : (returnOp r s).rxbody = s.rxbody := rfl
@[simp] theorem returnOp_rxftr (r : Result) (s : State) : (returnOp r s).rxftr = s.rxftr := rfl
@[simp] theorem returnOp_busy (r : Result) (s : State) : (returnOp r s).busy = false := rfl
@[simp] theorem returnOp_err (r : Result) (s : State) : (returnOp r s).err = .none := rfl
@[simp] theorem returnOp_errsub (r : Result) (s : State) : (returnOp r s).errsub = .none := rfl
@[simp] theorem returnOp_errinfo (r : Result) (s : State) : (returnOp r s).errinfo = freeErrInfo s.free := rfl
@[simp] theorem returnOp_tries (r : Result) (s : State) : (returnOp r s).tries = s.tries := rfl
@[simp] theorem returnOp_fwstr (r : Result) (s : State) : (returnOp r s).fwstr = s.fwstr := rfl
@[simp] theorem returnOp_fwlen (r : Result) (s : State) : (returnOp r s).fwlen = s.fwlen := rfl
@[simp] theorem returnOp_op (r : Result) (s : State) : (returnOp r s).op = .idle := rfl
@[simp] theorem returnOp_resp (r : Result) (s : State) : (returnOp r s).resp = .returned r := rfl
@[simp] theorem returnOp_moves (r : Result) (s : State) : (returnOp r s).moves = s.moves := rfl
@[simp] theorem returnOp_arrivals (r : Result) (s : State) : (returnOp r s).arrivals = s.arrivals := rfl
@[simp] theorem returnOp_writes (r : Result) (s : State) : (returnOp r s).writes = s.writes := rfl
@[simp] theorem returnOp_reads (r : Result) (s : State) : (returnOp r s).reads = s.reads := rfl
@[simp] theorem returnOp_free (r : Result) (s : State) : (returnOp r s).free = s.free + 1 := rfl

@[simp] theorem raiseOp_crc (e : Raise) (s : State) : (raiseOp e s).crc = s.crc := rfl
@[simp] theorem raiseOp_kidx (e : Raise) (s : State) : (raiseOp e s).kidx = s.kidx := rfl
@[simp] theorem raiseOp_timeout (e : Raise) (s : State) : (raiseOp e s).timeout = s.timeout := rfl
@[simp] theorem raiseOp_txlog (e : Raise) (s : State) : (raiseOp e s).txlog = s.txlog := rfl
@[simp] theorem raiseOp_rxq (e : Raise) (s : State) : (raiseOp e s).rxq = s.rxq := rfl
@[simp] theorem raiseOp_txstate (e : Raise) (s : State) : (raiseOp e s).txstate = .txIdle := rfl
@[simp] theorem raiseOp_rxstate (e : Raise) (s : State) : (raiseOp e s).rxstate = .rxIdle := rfl
@[simp] theorem raiseOp_txcnt (e : Raise) (s : State) : (raiseOp e s).txcnt = s.txcnt := rfl
@[simp] theorem raiseOp_rxcnt (e : Raise) (s : State) : (raiseOp e s).rxcnt = s.rxcnt := rfl
@[simp] theorem raiseOp_rxhdr (e : Raise) (s : State) : (raiseOp e s).rxhdr = s.rxhdr := rfl
@[simp] theorem raiseOp_rxbody (e : Raise) (s : State) : (raiseOp e s).rxbody = s.rxbody := rfl
@[simp] theorem raiseOp_rxftr (e : Raise) (s : State) : (raiseOp e s).rxftr = s.rxftr := rfl
@[simp] theorem raiseOp_busy (e : Raise) (s : State) : (raiseOp e s).busy = false := rfl
@[simp] theorem raiseOp_err (e : Raise) (s : State) : (raiseOp e s).err = e.cls := rfl
@[simp] theorem raiseOp_errsub (e : Raise) (s : State) : (raiseOp e s).errsub = e.sub := rfl
@[simp] theorem raiseOp_errinfo (e : Raise) (s : State) : (raiseOp e s).errinfo = ⟨e.exp, e.act, e.off⟩ := rfl
@[simp] theorem raiseOp_tries (e : Raise) (s : State) : (raiseOp e s).tries = s.tries := rfl
@[simp] theorem raiseOp_fwstr (e : Raise) (s : State) : (raiseOp e s).fwstr = s.fwstr := rfl
@[simp] theorem raiseOp_fwlen (e : Raise) (s : State) : (raiseOp e s).fwlen = s.fwlen := rfl
@[simp] theorem raiseOp_op (e : Raise) (s : State) : (raiseOp e s).op = .idle := rfl
@[simp] theorem raiseOp_resp (e : Raise) (s : State) : (raiseOp e s).resp = .raised := rfl
@[simp] theorem raiseOp_moves (e : Raise) (s : State) : (raiseOp e s).moves = s.moves := rfl
@[simp] theorem raiseOp_arrivals (e : Raise) (s : State) : (raiseOp e s).arrivals = s.arrivals := rfl
@[simp] theorem raiseOp_writes (e : Raise) (s : State) : (raiseOp e s).writes = s.writes := rfl
@[simp] theorem raiseOp_reads (e : Raise) (s : State) : (raiseOp e s).reads = s.reads := rfl
@[simp] theorem raiseOp_free (e : Raise) (s : State) : (raiseOp e s).free = s.free := rfl

@[simp] theorem arrive_crc (s : State) : (arrive s).crc = s.crc := rfl
@[simp] theorem arrive_kidx (s : State) : (arrive s).kidx = s.kidx := rfl
@[simp] theorem arrive_timeout (s : State) : (arrive s).timeout = s.timeout := rfl
@[simp] theorem arrive_txlog (s : State) : (arrive s).txlog = s.txlog := rfl
@[simp] theorem arrive_rxq (s : State) : (arrive s).rxq = s.rxq ++ nextArrival s := rfl
@[simp] theorem arrive_txstate (s : State) : (arrive s).txstate = s.txstate := rfl
@[simp] theorem arrive_rxstate (s : State) : (arrive s).rxstate = s.rxstate := rfl
@[simp] theorem arrive_txcnt (s : State) : (arrive s).txcnt = s.txcnt := rfl
@[simp] theorem arrive_rxcnt (s : State) : (arrive s).rxcnt = s.rxcnt := rfl
@[simp] theorem arrive_rxhdr (s : State) : (arrive s).rxhdr = s.rxhdr := rfl
@[simp] theorem arrive_rxbody (s : State) : (arrive s).rxbody = s.rxbody := rfl
@[simp] theorem arrive_rxftr (s : State) : (arrive s).rxftr = s.rxftr := rfl
@[simp] theorem arrive_busy (s : State) : (arrive s).busy = s.busy := rfl
@[simp] theorem arrive_err (s : State) : (arrive s).err = s.err := rfl
@[simp] theorem arrive_errsub (s : State) : (arrive s).errsub = s.errsub := rfl
@[simp] theorem arrive_errinfo (s : State) : (arrive s).errinfo = s.errinfo := rfl
@[simp] theorem arrive_tries (s : State) : (arrive s).tries = s.tries := rfl
@[simp] theorem arrive_fwstr (s : State) : (arrive s).fwstr = s.fwstr := rfl
@[simp] theorem arrive_fwlen (s : State) : (arrive s).fwlen = s.fwlen := rfl
@[simp] theorem arrive_op (s : State) : (arrive s).op = s.op := rfl
@[simp] theorem arrive_resp (s : State) : (arrive s).resp = s.resp := rfl
@[simp] theorem arrive_moves (s : State) : (arrive s).moves = s.moves := rfl
@[simp] theorem arrive_arrivals (s : State) : (arrive s).arrivals = s.arrivals.tail := rfl
@[simp] theorem arrive_writes (s : State) : (arrive s).writes = s.writes := rfl
@[simp] theorem arrive_reads (s : State) : (arrive s).reads = s.reads := rfl
@[simp] theorem arrive_free (s : State) : (arrive s).free = s.free + 1 := rfl

@[simp] theorem putOnLine_txlog (out : Bytes) (s : State) : (putOnLine out s).txlog = s.txlog ++ out := rfl
@[simp] theorem putOnLine_crc (out : Bytes) (s : State) : (putOnLine out s).crc = s.crc := rfl
@[simp] theorem putOnLine_kidx (out : Bytes) (s : State) : (putOnLine out s).kidx = s.kidx := rfl
@[simp] theorem putOnLine_timeout (out : Bytes) (s : State) : (putOnLine out s).timeout = s.timeout := rfl
@[simp] theorem putOnLine_rxq (out : Bytes) (s : State) : (putOnLine out s).rxq = s.rxq := rfl
@[simp] theorem putOnLine_txstate (out : Bytes) (s : State) : (putOnLine out s).txstate = s.txstate := rfl
@[simp] theorem putOnLine_rxstate (out : Bytes) (s : State) : (putOnLine out s).rxstate = s.rxstate := rfl
@[simp] theorem putOnLine_txcnt (out : Bytes) (s : State) : (putOnLine out s).txcnt = s.txcnt := rfl
@[simp] theorem putOnLine_rxcnt (out : Bytes) (s : State) : (putOnLine out s).rxcnt = s.rxcnt := rfl
@[simp] theorem putOnLine_rxhdr (out : Bytes) (s : State) : (putOnLine out s).rxhdr = s.rxhdr := rfl
@[simp] theorem putOnLine_rxbody (out : Bytes) (s : State) : (putOnLine out s).rxbody = s.rxbody := rfl
@[simp] theorem putOnLine_rxftr (out : Bytes) (s : State) : (putOnLine out s).rxftr = s.rxftr := rfl
@[simp] theorem putOnLine_busy (out : Bytes) (s : State) : (putOnLine out s).busy = s.busy := rfl
@[simp] theorem putOnLine_err (out : Bytes) (s : State) : (putOnLine out s).err = s.err := rfl
@[simp] theorem putOnLine_errsub (out : Bytes) (s : State) : (putOnLine out s).errsub = s.errsub := rfl
@[simp] theorem putOnLine_errinfo (out : Bytes) (s : State) : (putOnLine out s).errinfo = s.errinfo := rfl
@[simp] theorem putOnLine_tries (out : Bytes) (s : State) : (putOnLine out s).tries = s.tries := rfl
@[simp] theorem putOnLine_fwstr (out : Bytes) (s : State) : (putOnLine out s).fwstr = s.fwstr := rfl
@[simp] theorem putOnLine_fwlen (out : Bytes) (s : State) : (putOnLine out s).fwlen = s.fwlen := rfl
@[simp] theorem putOnLine_op (out : Bytes) (s : State) : (putOnLine out s).op = s.op := rfl
@[simp] theorem putOnLine_resp (out : Bytes) (s : State) : (putOnLine out s).resp = s.resp := rfl
@[simp] theorem putOnLine_moves (out : Bytes) (s : State) : (putOnLine out s).moves = s.moves := rfl
@[simp] theorem putOnLine_arrivals (out : Bytes) (s : State) : (putOnLine out s).arrivals = s.arrivals := rfl
@[simp] theorem putOnLine_writes (out : Bytes) (s : State) : (putOnLine out s).writes = s.writes := rfl
@[simp] theorem putOnLine_reads (out : Bytes) (s : State) : (putOnLine out s).reads = s.reads := rfl
@[simp] theorem putOnLine_free (out : Bytes) (s : State) : (putOnLine out s).free = s.free := rfl

@[simp] theorem txAt_crc (n pos : Nat) (s : State) : (txAt n pos s).crc = s.crc := rfl
@[simp] theorem txAt_kidx (n pos : Nat) (s : State) : (txAt n pos s).kidx = s.kidx := rfl
@[simp] theorem txAt_timeout (n pos : Nat) (s : State) : (txAt n pos s).timeout = s.timeout := rfl
@[simp] theorem txAt_txlog (n pos : Nat) (s : State) : (txAt n pos s).txlog = s.txlog := rfl
@[simp] theorem txAt_rxq (n pos : Nat) (s : State) : (txAt n pos s).rxq = s.rxq := rfl
@[simp] theorem txAt_txstate (n pos : Nat) (s : State) : (txAt n pos s).txstate = txPhase n pos := rfl
@[simp] theorem txAt_rxstate (n pos : Nat) (s : State) : (txAt n pos s).rxstate = s.rxstate := rfl
@[simp] theorem txAt_txcnt (n pos : Nat) (s : State) : (txAt n pos s).txcnt = BitVec.ofNat 9 pos := rfl
@[simp] theorem txAt_rxcnt (n pos : Nat) (s : State) : (txAt n pos s).rxcnt = s.rxcnt := rfl
@[simp] theorem txAt_rxhdr (n pos : Nat) (s : State) : (txAt n pos s).rxhdr = s.rxhdr := rfl
@[simp] theorem txAt_rxbody (n pos : Nat) (s : State) : (txAt n pos s).rxbody = s.rxbody := rfl
@[simp] theorem txAt_rxftr (n pos : Nat) (s : State) : (txAt n pos s).rxftr = s.rxftr := rfl
@[simp] theorem txAt_busy (n pos : Nat) (s : State) : (txAt n pos s).busy = s.busy := rfl
@[simp] theorem txAt_err (n pos : Nat) (s : State) : (txAt n pos s).err = s.err := rfl
@[simp] theorem txAt_errsub (n pos : Nat) (s : State) : (txAt n pos s).errsub = s.errsub := rfl
@[simp] theorem txAt_errinfo (n pos : Nat) (s : State) : (txAt n pos s).errinfo = s.errinfo := rfl
@[simp] theorem txAt_tries (n pos : Nat) (s : State) : (txAt n pos s).tries = s.tries := rfl
@[simp] theorem txAt_fwstr (n pos : Nat) (s : State) : (txAt n pos s).fwstr = s.fwstr := rfl
@[simp] theorem txAt_fwlen (n pos : Nat) (s : State) : (txAt n pos s).fwlen = s.fwlen := rfl
@[simp] theorem txAt_op (n pos : Nat) (s : State) : (txAt n pos s).op = s.op := rfl
@[simp] theorem txAt_resp (n pos : Nat) (s : State) : (txAt n pos s).resp = s.resp := rfl
@[simp] theorem txAt_moves (n pos : Nat) (s : State) : (txAt n pos s).moves = s.moves := rfl
@[simp] theorem txAt_arrivals (n pos : Nat) (s : State) : (txAt n pos s).arrivals = s.arrivals := rfl
@[simp] theorem txAt_writes (n pos : Nat) (s : State) : (txAt n pos s).writes = s.writes := rfl
@[simp] theorem txAt_reads (n pos : Nat) (s : State) : (txAt n pos s).reads = s.reads := rfl
@[simp] theorem txAt_free (n pos : Nat) (s : State) : (txAt n pos s).free = s.free := rfl

end Sys2Proof.Machine
end

