-- ==== Sys2Proof/Laws/Ops.lean ====
section
/-! SUPPORT. What each shared operation of Machine/Ops can do, once each. -/

namespace Sys2Proof.Machine

open Sys2Proof.Safety

@[simp] theorem andThen_done {α β : Type} (a : α) (s : State) (k : α → State → Ran β) :
    andThen (.done a s) k = k a s := rfl

@[simp] theorem andThen_raised {α β : Type} (e : Raise) (s : State) (k : α → State → Ran β) :
    andThen (.raised e s) k = .raised e s := rfl

theorem andThen_assoc {α β γ : Type} (r : Ran α) (k : α → State → Ran β) (l : β → State → Ran γ) :
    andThen (andThen r k) l = andThen r fun a s => andThen (k a s) l := by
  cases r <;> rfl

@[simp] theorem result_done {α : Type} (mk : α → Result) (a : α) (s : State) :
    result mk (.done a s) = .done (mk a) s := rfl

@[simp] theorem result_raised {α : Type} (mk : α → Result) (e : Raise) (s : State) :
    result mk (.raised e s) = .raised e s := rfl

@[simp] theorem addOff_done {α : Type} (off : Word) (a : α) (s : State) :
    addOff off (.done a s) = .done a s := rfl

@[simp] theorem addOff_raised {α : Type} (off : Word) (e : Raise) (s : State) :
    addOff off (.raised e s : Ran α) = .raised (e.withOff off) s := rfl

@[simp] theorem endOp_done (v : Result) (s : State) : endOp (.done v s) = returnOp v s := rfl

@[simp] theorem endOp_raised (e : Raise) (s : State) : endOp (.raised e s) = raiseOp e s := rfl

/-! ## Operand checks -/

theorem bodyFits_iff (body : Bytes) : bodyFits body = true ↔ body.length ≤ 255 := decide_eq_true_iff

theorem writeDataFits_iff (data : Bytes) : writeDataFits data = true ↔ data.length ≤ 243 := 
  decide_eq_true_iff

theorem durationAdmitted_iff (t : Duration) : durationAdmitted t = true ↔ 0 < t.num ∧ 0 < t.den := by
  simp [durationAdmitted]

theorem replyReadFits_iff (head data : Bytes) :
    replyReadFits head data = true ↔ (head.length = 8 ∧ data.length ≤ 247) ∨ (head.length < 8 ∧ data = []) := by
  rw [replyReadFits, Bool.and_eq_true, Bool.or_eq_true, Bool.and_eq_true, decide_eq_true_iff, decide_eq_true_iff,
    decide_eq_true_iff, List.isEmpty_iff]
  simp only [Config.rdReplySkip, Config.maxBody]
  cases data
  · simp only [List.length_nil, and_true]; omega
  · simp only [List.length_cons, reduceCtorEq, and_false, or_false]; omega

theorem replyAckFits_iff (mid tail : Bytes) : replyAckFits mid tail = true ↔ mid.length = 3 ∧ tail.length ≤ 249 := by
  rw [replyAckFits, Bool.and_eq_true, decide_eq_true_iff, decide_eq_true_iff]
  simp only [Config.maxBody]
  omega

/-! ## The environment's choices -/

/-- The model's choices are the claims' choices. -/
theorem nextWrite_eq (out : Bytes) (s : State) : nextWrite out s = writeChoice out s := by
  unfold nextWrite writeChoice; cases s.writes <;> rfl

theorem nextRead_eq (n : Nat) (s : State) : nextRead n s = readChoice 0 n s := by
  unfold nextRead readChoice; cases s.reads <;> rfl

theorem nextArrival_eq (s : State) : nextArrival s = arrivalChoice s := by
  unfold nextArrival arrivalChoice; cases s.arrivals <;> rfl

theorem returnOp_eq (r : Result) (s : State) : returnOp r s = succeeded r s := rfl

theorem raiseOp_eq (e : Raise) (s : State) : raiseOp e s = failed e.cls e.sub e.exp e.act e.off s := rfl

/-- A request is refused, or its operation runs to its end. -/
theorem invoke_cases (name : OpName) (fits : Bool) (body : State → Ran Result) (s : State) :
    (s.busy = true ∧ invoke name fits body s = .next (refuse .busy s)) ∨
    (s.busy = false ∧ fits = false ∧ invoke name fits body s = .next (refuse .operandOutOfType s)) ∨
    (s.busy = false ∧ fits = true ∧ invoke name fits body s = .next (endOp (body (beginOp name s)))) := by
  unfold invoke
  cases s.busy <;> cases fits <;> simp

theorem invoke_runs {name : OpName} {fits : Bool} {body : State → Ran Result} {s : State}
    (hb : s.busy = false) (hf : fits = true) :
    invoke name fits body s = .next (endOp (body (beginOp name s))) := by
  simp [invoke, hb, hf]

/-- A write that the environment accepts: every byte is handed to the line. -/
theorem uartWriteBy_ok {hand : Bytes → State → State} {out : Bytes} {s : State}
    (h : (writeChoice out s).fail = none ∨ out = []) :
    uartWriteBy hand out s = .done () (hand out
      { s with rxq := s.rxq ++ (writeChoice out s).arrive, writes := s.writes.tail, free := s.free + 1 }) := by
  unfold uartWriteBy
  rw [nextWrite_eq]
  rcases h with h | rfl
  · simp [h]
  · simp only
    split
    · contradiction
    · rfl

/-- A write that the environment fails after `k` bytes: these have been handed to the line. -/
theorem uartWriteBy_fail {hand : Bytes → State → State} {out : Bytes} {k : Nat} {s : State}
    (h : (writeChoice out s).fail = some k) (ho : out ≠ []) :
    uartWriteBy hand out s = .raised (report .writeFail out.length (min k out.length))
      (hand (out.take (min k out.length))
        { s with rxq := s.rxq ++ (writeChoice out s).arrive, writes := s.writes.tail, free := s.free + 1 }) := by
  unfold uartWriteBy
  rw [nextWrite_eq]
  obtain ⟨b, rest, rfl⟩ := List.exists_cons_of_ne_nil ho
  simp [h, sentBeforeFail]

/-- `UartWrite` that the environment accepts. -/
theorem uartWrite_ok {out : Bytes} {s : State} (h : (writeChoice out s).fail = none ∨ out = []) :
    uartWrite out s = .done ()
      { s with
        txlog := s.txlog ++ out, rxq := s.rxq ++ (writeChoice out s).arrive
        writes := s.writes.tail, free := s.free + 1 } :=
  uartWriteBy_ok h

/-- `UartWrite` that the environment fails after `k` bytes. -/
theorem uartWrite_fail {out : Bytes} {k : Nat} {s : State} (h : (writeChoice out s).fail = some k) (ho : out ≠ []) :
    uartWrite out s = .raised (report .writeFail out.length (min k out.length))
      { s with
        txlog := s.txlog ++ out.take (min k out.length), rxq := s.rxq ++ (writeChoice out s).arrive
        writes := s.writes.tail, free := s.free + 1 } :=
  uartWriteBy_fail h ho

/-- `UartRead` on a channel that does not fail. -/
theorem uartRead_ok {n : Nat} {s : State} (h : (readChoice 0 n s).fail = false ∨ n = 0) :
    uartRead n s = .done (got n s.rxq (readChoice 0 n s))
      { s with rxq := left n s.rxq (readChoice 0 n s), reads := s.reads.tail, free := s.free + 1 } := by
  unfold uartRead
  rw [nextRead_eq]
  rcases h with h | rfl
  · simp [h, got, left]
  · simp [got, left]

/-- `UartRead` on a channel that fails consumes nothing. -/
theorem uartRead_fail {n : Nat} {s : State} (h : (readChoice 0 n s).fail = true) (hn : n ≠ 0) :
    uartRead n s = .raised (report .readFail n 0)
      { s with
        rxq := s.rxq ++ (readChoice 0 n s).inTime ++ (readChoice 0 n s).late
        reads := s.reads.tail, free := s.free + 1 } := by
  unfold uartRead
  rw [nextRead_eq]
  simp [h, hn]

theorem uartRead_cases (n : Nat) (s : State) :
    ((readChoice 0 n s).fail = false ∨ n = 0) ∨ ((readChoice 0 n s).fail = true ∧ n ≠ 0) := by
  by_cases n = 0 <;> cases (readChoice 0 n s).fail <;> simp_all

end Sys2Proof.Machine
end

