-- ==== Sys2Proof/Laws/Engines.lean ====
section
/-! SUPPORT. The obfuscation codec and the CRC engine as pure functions: the loop of R93 is the function of R90, and the
CRC's bit steps are linear (R105). -/

namespace Sys2Proof.Machine

/-! ## Obfuscation codec -/

@[simp] theorem obf_length (key : Vector Byte 16) (s : Bytes) : (obf key s).length = s.length := by simp [obf]

@[simp] theorem obf_nil (key : Vector Byte 16) : obf key [] = [] := rfl

theorem obf_getElem? (key : Vector Byte 16) (s : Bytes) (i : Nat) :
    (obf key s)[i]? = (s[i]?).map fun b => b ^^^ keyAt key i := by
  simp [obf, List.getElem?_mapIdx]

/-- `KIDX` is the position modulo 16. -/
theorem keyAt_ofNat (key : Vector Byte 16) (i : Nat) : keyAt key (BitVec.ofNat 4 i).toNat = keyAt key i := by
  simp [keyAt, BitVec.toNat_ofNat]

theorem ofNat4_succ (k : Nat) : BitVec.ofNat 4 k + 1 = BitVec.ofNat 4 (k + 1) := by
  apply BitVec.eq_of_toNat_eq; simp

theorem obfLoop_eq (key : Vector Byte 16) (s : Bytes) (k : Nat) :
    obfLoop key (BitVec.ofNat 4 k) s =
      (s.mapIdx (fun i b => b ^^^ keyAt key (k + i)), BitVec.ofNat 4 (k + s.length)) := by
  induction s generalizing k with
  | nil => simp [obfLoop]
  | cons b rest ih =>
    rw [obfLoop, ofNat4_succ, ih (k + 1), keyAt_ofNat]
    simp [List.mapIdx_cons, Nat.add_assoc, Nat.add_comm 1]

/-- R93: the message loop returns `OBF(s)` and leaves `KIDX = len(s) mod 16`. -/
theorem obfLoop_message (key : Vector Byte 16) (s : Bytes) :
    obfLoop key 0 s = (obf key s, BitVec.ofNat 4 s.length) := by
  have h := obfLoop_eq key s 0
  simpa [obf] using h

theorem obfMessage_eq (p : Params) (m : Bytes) (s : State) :
    obfMessage p m s = .done (obf p.key m) { s with kidx := BitVec.ofNat 4 m.length } := by
  rw [obfMessage, obfLoop_message]

theorem obf_obf (key : Vector Byte 16) (s : Bytes) : obf key (obf key s) = s := by
  apply List.ext_getElem?
  intro i
  rw [obf_getElem?, obf_getElem?]
  cases s[i]? <;> simp

theorem obf_take (key : Vector Byte 16) (s : Bytes) (n : Nat) : obf key (s.take n) = (obf key s).take n := by
  apply List.ext_getElem?
  intro i
  simp only [obf_getElem?, List.getElem?_take]
  split <;> simp

/-! ## CRC engine -/

theorem xor_both (x y p : Word) : (x ^^^ p) ^^^ (y ^^^ p) = x ^^^ y := by
  rw [BitVec.xor_assoc, BitVec.xor_comm y p, ← BitVec.xor_assoc p p y, BitVec.xor_self, BitVec.zero_xor]

theorem crcBit_xor (a b : Word) : crcBit (a ^^^ b) = crcBit a ^^^ crcBit b := by
  unfold crcBit
  simp only [BitVec.getLsbD_xor, BitVec.shiftLeft_xor_distrib]
  cases a.getLsbD 15 <;> cases b.getLsbD 15 <;> simp [xor_both] <;> ac_rfl

theorem crcBits_xor (n : Nat) (a b : Word) : crcBits n (a ^^^ b) = crcBits n a ^^^ crcBits n b := by
  induction n generalizing a b with
  | zero => rfl
  | succ n ih => simp only [crcBits, crcBit_xor, ih]

theorem crcByte_xor (c d : Word) (a b : Byte) :
    crcByte (c ^^^ d) (a ^^^ b) = crcByte c a ^^^ crcByte d b := by
  unfold crcByte
  rw [← crcBits_xor]
  congr 1
  rw [BitVec.setWidth_xor, BitVec.shiftLeft_xor_distrib]
  ac_rfl

@[simp] theorem crcByte_zero : crcByte 0 0 = 0 := by decide

@[simp] theorem crc16_nil : crc16 [] = 0 := rfl

end Sys2Proof.Machine
end

