-- ==== Sys2Proof/Laws/Frame.lean ====
section
/-! SUPPORT. What the encoder and the decoder can do, once each: SEND accepted or failed, each of RECV's reads and checks,
and what neither of them touches. -/

namespace Sys2Proof.Machine

open Sys2Proof.Safety

/-! ## SEND -/

theorem commandFrame_eq (body : Bytes) : commandFrame body = encodeFrame Config.key body := rfl

theorem commandFrame_length (body : Bytes) : (commandFrame body).length = body.length + 8 := by
  simp [commandFrame]

theorem commandFrame_ne_nil (body : Bytes) : commandFrame body ≠ [] := by simp [commandFrame]

theorem txPhase_end (n : Nat) : txPhase n (n + 8) = .txIdle := by
  unfold txPhase
  rw [if_neg (by omega), if_neg (by omega), if_neg (by omega)]

/-- What the encoder has done when it has emitted bytes from position `pos` on: they are in `TXLOG` in order, and the
sequencer stands at the position after the last. -/
theorem emitFrom_eq (n pos : Nat) (out : Bytes) (s : State) :
    emitFrom n pos out s = { txAt n (pos + out.length) s with txlog := s.txlog ++ out } := by
  induction out generalizing pos s with
  | nil => simp [emitFrom, txAt]
  | cons b rest ih =>
    rw [emitFrom, ih]
    simp [putOnLine, txAt, Nat.add_assoc, Nat.add_comm 1]

/-- The encoder passes through every position: emitting `a` and then `b` goes through the state after `a`. -/
theorem emitFrom_append (n pos : Nat) (a b : Bytes) (s : State) :
    emitFrom n pos (a ++ b) s = emitFrom n (pos + a.length) b (emitFrom n pos a s) := by
  simp [emitFrom_eq, txAt, Nat.add_assoc]

/-- SEND's write, told by the write of the same bytes all at once. -/
theorem transmit_eq (n : Nat) (frame : Bytes) (s : State) :
    transmit n frame s =
      match uartWrite frame s with
      | .done _ t => .done () (txAt n frame.length t)
      | .raised e t => .raised e (txAt n e.act t) := by
  cases hf : (writeChoice frame s).fail with
  | none =>
    rw [transmit, uartWriteBy_ok (.inl hf), uartWrite_ok (.inl hf), emitFrom_eq, Nat.zero_add]
    rfl
  | some k =>
    by_cases ho : frame = []
    · rw [transmit, uartWriteBy_ok (.inr ho), uartWrite_ok (.inr ho), emitFrom_eq, Nat.zero_add]
      rfl
    · rw [transmit, uartWriteBy_fail hf ho, uartWrite_fail hf ho, emitFrom_eq, Nat.zero_add, List.length_take,
        Nat.min_assoc, Nat.min_self]
      rfl

theorem transmit_ok {n : Nat} {frame : Bytes} {s : State} (h : (writeChoice frame s).fail = none)
    (hn : frame.length = n + 8) :
    transmit n frame s = .done ()
      { s with
        txlog := s.txlog ++ frame, rxq := s.rxq ++ (writeChoice frame s).arrive
        writes := s.writes.tail, free := s.free + 1
        txstate := .txIdle, txcnt := BitVec.ofNat 9 (n + 8) } := by
  rw [transmit_eq, uartWrite_ok (.inl h), hn]
  simp only [txAt, txPhase_end]

theorem transmit_fail {n k : Nat} {frame : Bytes} {s : State} (h : (writeChoice frame s).fail = some k)
    (hf : frame ≠ []) :
    transmit n frame s = .raised (report .writeFail frame.length (min k frame.length))
      { s with
        txlog := s.txlog ++ frame.take (min k frame.length), rxq := s.rxq ++ (writeChoice frame s).arrive
        writes := s.writes.tail, free := s.free + 1
        txstate := txPhase n (min k frame.length), txcnt := BitVec.ofNat 9 (min k frame.length) } := by
  rw [transmit_eq, uartWrite_fail h hf]
  rfl

theorem sendBody_transmit (body : Bytes) (s : State) :
    sendBody Config.params body s = transmit body.length (commandFrame body)
      { s with crc := crc16 body, kidx := BitVec.ofNat 4 (body.length + 2) } := by
  have hl : (body ++ le16 (crc16 body)).length = body.length + 2 := by simp [le16]
  simp only [sendBody, crcMessage, andThen_done, obfMessage_eq, hl]
  rfl

theorem sendBody_ok {body : Bytes} {s : State} (h : SendAccepted body s) :
    sendBody Config.params body s = .done () (afterSend body s) := by
  rw [sendBody_transmit]
  exact transmit_ok h (commandFrame_length body)

theorem sendBody_fail {body : Bytes} {s : State} {k : Nat} (h : (writeChoice (commandFrame body) s).fail = some k) :
    sendBody Config.params body s =
      .raised (report .writeFail (body.length + 8) (min k (body.length + 8)))
        { afterPartialSend body (min k (body.length + 8)) s with
          txstate := txPhase body.length (min k (body.length + 8)) } := by
  rw [sendBody_transmit, ← commandFrame_length body]
  exact transmit_fail h (commandFrame_ne_nil body)

theorem sendAccepted_or_fails (body : Bytes) (s : State) :
    SendAccepted body s ∨ ∃ k, (writeChoice (commandFrame body) s).fail = some k := by
  unfold SendAccepted
  cases (writeChoice (commandFrame body) s).fail <;> simp

/-! ## RECV -/

/-- `t` is `s` with the first `k` reads behind it, as far as the environment's choices at reads go. -/
structure ReadsBehind (k : Nat) (s t : State) : Prop where
  reads   : t.reads = s.reads.drop k
  free    : t.free = s.free + k
  timeout : t.timeout = s.timeout

theorem ReadsBehind.choice {k : Nat} {s t : State} (h : ReadsBehind k s t) (n : Nat) :
    readChoice 0 n t = readChoice k n s := by
  unfold readChoice
  rw [h.reads, h.free, h.timeout]
  simp

theorem ReadsBehind.tail {k : Nat} {s t : State} (h : ReadsBehind k s t) : t.reads.tail = s.reads.drop (k + 1) := by
  rw [h.reads, List.tail_drop]

theorem readPhase_ok {phase : RxState} {n : Nat} {s : State} (h : (readChoice 0 n s).fail = false ∨ n = 0) :
    readPhase phase n s = .done (got n s.rxq (readChoice 0 n s))
      { s with
        rxstate := phase, rxq := left n s.rxq (readChoice 0 n s), reads := s.reads.tail, free := s.free + 1
        rxcnt := s.rxcnt + BitVec.ofNat 9 (got n s.rxq (readChoice 0 n s)).length } := by
  unfold readPhase
  rw [uartRead_ok (by exact h)]
  rfl

theorem readPhase_fail {phase : RxState} {n : Nat} {s : State} (h : (readChoice 0 n s).fail = true) (hn : n ≠ 0) :
    readPhase phase n s = .raised (report .readFail n 0)
      { s with
        rxstate := phase, rxq := s.rxq ++ (readChoice 0 n s).inTime ++ (readChoice 0 n s).late
        reads := s.reads.tail, free := s.free + 1 } := by
  unfold readPhase
  rw [uartRead_fail (by exact h) hn]
  rfl

theorem overwrite_eq_filled {n : Nat} (v : Vector Byte n) (b : Bytes) : overwrite v b = filled v b := by
  unfold overwrite filled
  congr 1
  funext i
  by_cases h : i.val < b.length
  · simp [h]
  · simp [h]

theorem filled_four (v : Vector Byte 4) (a b c d : Byte) : filled v [a, b, c, d] = #v[a, b, c, d] := by
  apply Vector.ext
  intro i hi
  simp only [filled, Vector.getElem_ofFn]
  match i, hi with
  | 0, _ => rfl
  | 1, _ => rfl
  | 2, _ => rfl
  | 3, _ => rfl

/-- RECV's header part, when the read returns `h`: the checks in the order of R131. -/
theorem recvHeader_read {s : State} {h : Bytes} (hh : HeaderRead s h) :
    recvHeader s =
      if h.length < 4 then
        .raised (report .shortHeader 4 h.length) { afterHeaderRead h.length s with rxstate := .rxHdr }
      else if headerMagicOk h = false then
        .raised (report .badHeaderMagic 0xABCD (be16Nat (byteAt h 0) (byteAt h 1)))
          { afterHeaderRead h.length s with rxstate := .rxHdr }
      else if byteAt h 3 ≠ Config.hdrRsvd then
        .raised (report .badHeaderRsvd 0x00 (byteAt h 3).toNat)
          { afterHeaderRead h.length s with rxstate := .rxHdr }
      else .done (byteAt h 2) { afterHeaderRead h.length s with rxstate := .rxHdr, rxhdr := filled s.rxhdr h } := by
  obtain ⟨hf, rfl⟩ := hh
  have hr := readPhase_ok (phase := .rxHdr) (n := 4) (s := { s with rxcnt := 0 }) (.inl hf)
  unfold recvHeader
  rw [hr]
  simp only [andThen_done, overwrite_eq_filled, zero_add, afterHeaderRead, List.drop_one]
  rfl

theorem recvHeader_fail {s : State} (h : (readChoice 0 4 s).fail = true) :
    recvHeader s = .raised (report .readFail 4 0)
      { s with
        rxcnt := 0, rxstate := .rxHdr, rxq := s.rxq ++ (readChoice 0 4 s).inTime ++ (readChoice 0 4 s).late
        reads := s.reads.tail, free := s.free + 1 } := by
  have hr := readPhase_fail (phase := .rxHdr) (n := 4) (s := { s with rxcnt := 0 }) h (by decide)
  unfold recvHeader
  rw [hr]
  rfl

/-- The state when a good header has been taken. -/
def headerDone (len : Byte) (s : State) : State :=
  { afterHeaderRead 4 s with rxstate := .rxHdr, rxhdr := #v[0xAB, 0xCD, len, 0x00] }

/-- The state when the whole body has been taken too. -/
def bodyDone (len : Byte) (b : Bytes) (s : State) : State :=
  { afterBodyRead len b.length s with rxstate := .rxBody, rxbody := filled s.rxbody b }

theorem recvHeader_good {s : State} {len : Byte} (hh : HeaderRead s [0xAB, 0xCD, len, 0x00]) :
    recvHeader s = .done len (headerDone len s) := by
  rw [recvHeader_read hh, filled_four]
  rfl

theorem headerDone_behind (len : Byte) (s : State) : ReadsBehind 1 s (headerDone len s) := ⟨rfl, rfl, rfl⟩

theorem bodyDone_behind (len : Byte) (b : Bytes) (s : State) : ReadsBehind 2 s (bodyDone len b s) := ⟨rfl, rfl, rfl⟩

theorem ofNat9_add (a b : Nat) : BitVec.ofNat 9 a + BitVec.ofNat 9 b = BitVec.ofNat 9 (a + b) :=
  (BitVec.ofNat_add a b).symm

/-- RECV's body part after a good header, when the read returns `b`. -/
theorem recvPayload_read {s : State} {len : Byte} {b : Bytes} (hb : BodyRead s len.toNat b) :
    recvPayload len.toNat (headerDone len s) =
      if b.length < len.toNat then
        .raised (report .shortBody len.toNat b.length) { afterBodyRead len b.length s with rxstate := .rxBody }
      else .done b (bodyDone len b s) := by
  obtain ⟨hfail, rfl⟩ := hb
  have hk := headerDone_behind len s
  rw [← hk.choice] at hfail
  unfold recvPayload
  rw [readPhase_ok hfail, andThen_done, hk.choice, hk.tail, overwrite_eq_filled]
  simp only [headerDone, bodyDone, afterBodyRead, afterHeaderRead, leftAfterBody, ofNat9_add]

theorem recvPayload_fail {s : State} {len : Byte} (h : (readChoice 1 len.toNat s).fail = true) (hn : len.toNat ≠ 0) :
    recvPayload len.toNat (headerDone len s) = .raised (report .readFail len.toNat 0)
      { headerDone len s with
        rxstate := .rxBody
        rxq := leftAfterHeader s ++ (readChoice 1 len.toNat s).inTime ++ (readChoice 1 len.toNat s).late
        reads := s.reads.drop 2, free := s.free + 2 } := by
  have hk := headerDone_behind len s
  rw [← hk.choice] at h
  unfold recvPayload
  rw [readPhase_fail h hn, andThen_raised, hk.choice, hk.tail]
  rfl

/-- RECV's footer part after a good header and the whole body, when the read returns `f`. -/
theorem recvFooter_read {s : State} {len : Byte} {b f : Bytes} (hl : b.length = len.toNat)
    (hf : FooterRead s len.toNat f) :
    recvFooter (bodyDone len b s) =
      if f.length < 4 then
        .raised (report .shortFooter 4 f.length) { afterFooterRead len b f.length s with rxstate := .rxFtr }
      else if footerMagicOk f = false then
        .raised (report .badFooterMagic 0xDCBA (be16Nat (byteAt f 2) (byteAt f 3)))
          { afterFooterRead len b f.length s with rxstate := .rxFtr, rxftr := filled s.rxftr f }
      else .done () { afterFooterRead len b f.length s with rxstate := .rxFtr, rxftr := filled s.rxftr f } := by
  obtain ⟨hfail, rfl⟩ := hf
  have hk := bodyDone_behind len b s
  rw [← hk.choice] at hfail
  unfold recvFooter
  rw [readPhase_ok (.inl hfail), andThen_done, hk.choice, hk.tail, overwrite_eq_filled]
  simp only [bodyDone, afterFooterRead, afterBodyRead, leftAfterFooter, ofNat9_add, hl]

theorem recvFooter_fail {s : State} {len : Byte} {b : Bytes} (h : (readChoice 2 4 s).fail = true) :
    recvFooter (bodyDone len b s) = .raised (report .readFail 4 0)
      { bodyDone len b s with
        rxstate := .rxFtr
        rxq := leftAfterBody len.toNat s ++ (readChoice 2 4 s).inTime ++ (readChoice 2 4 s).late
        reads := s.reads.drop 3, free := s.free + 3 } := by
  have hk := bodyDone_behind len b s
  rw [← hk.choice] at h
  unfold recvFooter
  rw [readPhase_fail h (by decide), andThen_raised, hk.choice, hk.tail]
  rfl

/-- Each of the three reads fails or returns something. -/
theorem headerRead_or_fails (s : State) : (readChoice 0 4 s).fail = true ∨ ∃ h, HeaderRead s h := by
  cases h : (readChoice 0 4 s).fail
  · exact .inr ⟨_, h, rfl⟩
  · exact .inl rfl

theorem bodyRead_or_fails (n : Nat) (s : State) : ((readChoice 1 n s).fail = true ∧ n ≠ 0) ∨ ∃ b, BodyRead s n b := by
  by_cases hn : n = 0
  · exact .inr ⟨_, .inr hn, rfl⟩
  · cases h : (readChoice 1 n s).fail
    · exact .inr ⟨_, .inl h, rfl⟩
    · exact .inl ⟨rfl, hn⟩

theorem footerRead_or_fails (n : Nat) (s : State) : (readChoice 2 4 s).fail = true ∨ ∃ f, FooterRead s n f := by
  cases h : (readChoice 2 4 s).fail
  · exact .inr ⟨_, h, rfl⟩
  · exact .inl rfl

/-- What a read returns and what it leaves are, in order, what was there and what arrived. -/
theorem got_append_left (n : Nat) (q : Bytes) (d : ReadDraw) : got n q d ++ left n q d = q ++ d.inTime ++ d.late := by
  rw [got, left, ← List.append_assoc, List.take_append_drop]

theorem got_length (n : Nat) (q : Bytes) (d : ReadDraw) : (got n q d).length ≤ n := by
  rw [got, List.length_take]; omega

theorem footerMagicOk_good (f0 f1 : Byte) : footerMagicOk [f0, f1, 0xDC, 0xBA] = true := rfl

theorem ofNat_length_toNat {b : Bytes} (h : b.length ≤ 255) : (BitVec.ofNat 8 b.length).toNat = b.length := by
  simp only [BitVec.toNat_ofNat]; omega

/-- R131: a line that gives a good frame is a RECV that returns its body. -/
theorem recvBody_ok {s : State} {b : Bytes} {f0 f1 : Byte} (h : LineGives s b f0 f1) :
    recvBody Config.params s = .done (onLine b) (afterRecv b f0 f1 s) := by
  obtain ⟨hs, hh, hb, hf⟩ := h
  have hn := ofNat_length_toNat hs
  have h2 : recvPayload (BitVec.ofNat 8 b.length).toNat (headerDone (BitVec.ofNat 8 b.length) s) =
      .done b (bodyDone (BitVec.ofNat 8 b.length) b s) := by
    rw [recvPayload_read (by rw [hn]; exact hb), if_neg (by omega)]
  have h3 := recvFooter_read (s := s) (len := BitVec.ofNat 8 b.length) (b := b) hn.symm (by rw [hn]; exact hf)
  rw [if_neg (by simp), if_neg (by rw [footerMagicOk_good]; decide)] at h3
  unfold recvBody
  simp only [recvHeader_good hh, andThen_done, h2, h3, obfMessage_eq, filled_four]
  simp only [afterFooterRead, afterRecv, hn, List.length_cons, List.length_nil]
  rw [show 4 + b.length + (0 + 1 + 1 + 1 + 1) = b.length + 8 by omega]
  rfl

end Sys2Proof.Machine
end

