-- ==== Sys2Proof/Laws/Keep.lean ====
section
/-! SUPPORT. What the parts of an operation leave alone, however they end: SEND's part, RECV's part, HANDSHAKE's loop. -/

namespace Sys2Proof.Machine

open Sys2Proof.Safety

/-- The state a part of an operation leaves, however it ends. -/
def Ran.last {α : Type} : Ran α → State
  | .done _ s => s
  | .raised _ s => s

@[simp] theorem Ran.last_done {α : Type} (a : α) (s : State) : (Ran.done a s).last = s := rfl

@[simp] theorem Ran.last_raised {α : Type} (e : Raise) (s : State) : (Ran.raised e s : Ran α).last = s := rfl

@[simp] theorem addOff_last {α : Type} (off : Word) (r : Ran α) : (addOff off r).last = r.last := by cases r <;> rfl

@[simp] theorem result_last {α : Type} (mk : α → Result) (r : Ran α) : (result mk r).last = r.last := by cases r <;> rfl

/-- A transitive relation between states is kept by two parts in turn. -/
theorem andThen_last {α β : Type} {R : State → State → Prop} (htrans : ∀ a b c, R a b → R b c → R a c)
    {s : State} {r : Ran α} {k : α → State → Ran β}
    (h1 : R s r.last) (h2 : ∀ a t, r = .done a t → R t (k a t).last) : R s (andThen r k).last := by
  cases r with
  | done a t => exact htrans _ _ _ h1 (h2 a t rfl)
  | raised e t => exact h1

/-- What every part of an operation leaves alone: the end of the operation has not come, the host's registers and the
requests stand, and the bytes sent only grow. -/
structure PartKeeps (s t : State) : Prop where
  timeout  : t.timeout = s.timeout
  busy     : t.busy = s.busy
  op       : t.op = s.op
  err      : t.err = s.err
  errsub   : t.errsub = s.errsub
  errinfo  : t.errinfo = s.errinfo
  resp     : t.resp = s.resp
  fwstr    : t.fwstr = s.fwstr
  fwlen    : t.fwlen = s.fwlen
  moves    : t.moves = s.moves
  arrivals : t.arrivals = s.arrivals
  txlog    : s.txlog <+: t.txlog

theorem PartKeeps.refl (s : State) : PartKeeps s s := ⟨rfl, rfl, rfl, rfl, rfl, rfl, rfl, rfl, rfl, rfl, rfl, List.prefix_rfl⟩

theorem PartKeeps.trans {s t u : State} (h : PartKeeps s t) (h' : PartKeeps t u) : PartKeeps s u where
  timeout := h'.timeout.trans h.timeout
  busy := h'.busy.trans h.busy
  op := h'.op.trans h.op
  err := h'.err.trans h.err
  errsub := h'.errsub.trans h.errsub
  errinfo := h'.errinfo.trans h.errinfo
  resp := h'.resp.trans h.resp
  fwstr := h'.fwstr.trans h.fwstr
  fwlen := h'.fwlen.trans h.fwlen
  moves := h'.moves.trans h.moves
  arrivals := h'.arrivals.trans h.arrivals
  txlog := h.txlog.trans h'.txlog

/-- SEND's part besides: it touches no receive register and takes nothing out of `RXQ`. -/
structure SendKeeps (s t : State) : Prop extends PartKeeps s t where
  rxstate : t.rxstate = s.rxstate
  rxcnt   : t.rxcnt = s.rxcnt
  rxhdr   : t.rxhdr = s.rxhdr
  rxbody  : t.rxbody = s.rxbody
  rxftr   : t.rxftr = s.rxftr
  reads   : t.reads = s.reads
  tries   : t.tries = s.tries
  rxq     : s.rxq <+: t.rxq

/-- RECV's part besides: it touches no transmit register and sends nothing. -/
structure RecvKeeps (s t : State) : Prop extends PartKeeps s t where
  crc      : t.crc = s.crc
  sent     : t.txlog = s.txlog
  txstate  : t.txstate = s.txstate
  txcnt    : t.txcnt = s.txcnt
  writes   : t.writes = s.writes
  tries    : t.tries = s.tries

theorem RecvKeeps.refl (s : State) : RecvKeeps s s where
  toPartKeeps := .refl s
  crc := rfl
  sent := rfl
  txstate := rfl
  txcnt := rfl
  writes := rfl
  tries := rfl

theorem RecvKeeps.trans {s t u : State} (h : RecvKeeps s t) (h' : RecvKeeps t u) : RecvKeeps s u where
  toPartKeeps := h.toPartKeeps.trans h'.toPartKeeps
  crc := h'.crc.trans h.crc
  sent := h'.sent.trans h.sent
  txstate := h'.txstate.trans h.txstate
  txcnt := h'.txcnt.trans h.txcnt
  writes := h'.writes.trans h.writes
  tries := h'.tries.trans h.tries

/-! ## SEND's part -/

/-- A write appends a prefix of its bytes to `TXLOG`, and what arrives meanwhile to `RXQ`. -/
theorem uartWrite_last (m : Bytes) (s : State) :
    ∃ n, n ≤ m.length ∧ (uartWrite m s).last =
      { s with
        txlog := s.txlog ++ m.take n, rxq := s.rxq ++ (nextWrite m s).arrive, writes := s.writes.tail
        free := s.free + 1 } := by
  cases hf : (nextWrite m s).fail with
  | none =>
    refine ⟨m.length, Nat.le_refl _, ?_⟩
    simp only [uartWrite, uartWriteBy, hf, List.take_length]
    rfl
  | some k =>
    cases m with
    | nil => exact ⟨0, Nat.le_refl _, by simp only [uartWrite, uartWriteBy, hf]; rfl⟩
    | cons b rest => exact ⟨_, Nat.min_le_right _ _, by simp only [uartWrite, uartWriteBy, hf]; rfl⟩

/-- Whatever the channel does, SEND's part has written a prefix of one frame, and the counter says how long it is. -/
theorem sendBody_last (p : Params) (body : Bytes) (s : State) :
    SendKeeps s (sendBody p body s).last ∧
    ∃ n, n ≤ body.length + 8 ∧ (sendBody p body s).last.txcnt = BitVec.ofNat 9 n := by
  have hl : (body ++ le16 (crc16 body)).length = body.length + 2 := by simp [le16]
  have hf : (frameHeader body.length ++ obf p.key (body ++ le16 (crc16 body)) ++ footerMagic).length
      = body.length + 8 := by simp [frameHeader, footerMagic, hl]
  simp only [sendBody, crcMessage, andThen_done, obfMessage_eq, transmit_eq]
  generalize frameHeader body.length ++ obf p.key (body ++ le16 (crc16 body)) ++ footerMagic = frame at hf
  unfold uartWrite uartWriteBy
  cases hfail : (nextWrite frame
      { s with crc := crc16 body, kidx := BitVec.ofNat 4 (body ++ le16 (crc16 body)).length }).fail with
  | none =>
    simp only [hfail]
    exact ⟨⟨⟨rfl, rfl, rfl, rfl, rfl, rfl, rfl, rfl, rfl, rfl, rfl, List.prefix_append _ _⟩, rfl, rfl, rfl, rfl, rfl,
      rfl, rfl, List.prefix_append _ _⟩, _, Nat.le_of_eq hf, rfl⟩
  | some k =>
    cases frame with
    | nil => simp at hf
    | cons b rest =>
      simp only [hfail]
      refine ⟨⟨⟨rfl, rfl, rfl, rfl, rfl, rfl, rfl, rfl, rfl, rfl, rfl, List.prefix_append _ _⟩, rfl, rfl, rfl, rfl, rfl,
        rfl, rfl, List.prefix_append _ _⟩, _, ?_, rfl⟩
      simp only [report, sentBeforeFail, hf]
      omega

/-- SEND's part raises a channel failure or nothing. -/
theorem sendBody_raises {p : Params} {body : Bytes} {s t : State} {e : Raise}
    (h : sendBody p body s = .raised e t) : e.sub = .writeFail ∧ e.cls = .transportError ∧ e.off = 0 := by
  simp only [sendBody, crcMessage, andThen_done, obfMessage_eq, transmit_eq, uartWrite, uartWriteBy] at h
  split at h
  · contradiction
  · rename_i h'
    split at h'
    · cases h'; cases h; exact ⟨rfl, rfl, rfl⟩
    · contradiction

/-- When SEND's part is done the transmitter is idle. -/
theorem sendBody_done {p : Params} {body : Bytes} {s t : State} {u : Unit}
    (h : sendBody p body s = .done u t) : t.txstate = .txIdle := by
  have hl : (frameHeader body.length ++ obf p.key (body ++ le16 (crc16 body)) ++ footerMagic).length
      = body.length + 8 := by simp [frameHeader, footerMagic, le16]
  simp only [sendBody, crcMessage, andThen_done, obfMessage_eq, transmit_eq] at h
  rw [hl] at h
  split at h
  · cases h; exact txPhase_end _
  · contradiction

/-! ## RECV's part -/

/-- A read takes bytes from the head of the queue only; what it takes it returns. -/
theorem uartRead_takes (n : Nat) (s : State) :
    (∃ b t, uartRead n s = .done b t ∧ RecvKeeps s t ∧ b.length ≤ n ∧
      (b ++ t.rxq = s.rxq ++ (nextRead n s).inTime ++ (nextRead n s).late) ∧
      t.rxhdr = s.rxhdr ∧ t.rxbody = s.rxbody ∧ t.rxftr = s.rxftr ∧ t.rxcnt = s.rxcnt ∧ t.kidx = s.kidx ∧
      t.rxstate = s.rxstate) ∨
    (∃ t, uartRead n s = .raised (report .readFail n 0) t ∧ RecvKeeps s t ∧
      t.rxq = s.rxq ++ (nextRead n s).inTime ++ (nextRead n s).late ∧
      t.rxhdr = s.rxhdr ∧ t.rxbody = s.rxbody ∧ t.rxftr = s.rxftr ∧ t.rxcnt = s.rxcnt ∧ t.kidx = s.kidx ∧
      t.rxstate = s.rxstate) := by
  unfold uartRead
  simp only
  split
  · exact .inr ⟨_, rfl, ⟨⟨rfl, rfl, rfl, rfl, rfl, rfl, rfl, rfl, rfl, rfl, rfl, List.prefix_rfl⟩, rfl, rfl, rfl, rfl,
      rfl, rfl⟩, rfl, rfl, rfl, rfl, rfl, rfl, rfl⟩
  · refine .inl ⟨_, _, rfl, ⟨⟨rfl, rfl, rfl, rfl, rfl, rfl, rfl, rfl, rfl, rfl, rfl, List.prefix_rfl⟩, rfl, rfl, rfl, rfl,
      rfl, rfl⟩, ?_, ?_, rfl, rfl, rfl, rfl, rfl, rfl⟩
    · simp only [List.length_take]; omega
    · rw [← List.append_assoc, List.take_append_drop]

/-- A state that RECV's part can be in, from `s`, when `n` bytes of the frame have been consumed. -/
structure Consumed (s t : State) (n : Nat) : Prop extends RecvKeeps s t where
  rxcnt : t.rxcnt = BitVec.ofNat 9 n
  rxq   : s.rxq.drop n <+: t.rxq

theorem drop_prefix_of_append {q b r d : Bytes} (h : b ++ r = q ++ d) : q.drop b.length <+: r := by
  have : (b ++ r).drop b.length = (q ++ d).drop b.length := by rw [h]
  rw [List.drop_left, List.drop_append] at this
  rw [this]
  exact List.prefix_append _ _

/-- One phase: at most `n` further bytes are consumed, and a channel failure consumes none. -/
theorem readPhase_consumes (phase : RxState) (n : Nat) {s t : State} {k : Nat} (h : Consumed s t k) :
    (∃ b u, readPhase phase n t = .done b u ∧ b.length ≤ n ∧ Consumed s u (k + b.length)) ∨
    (∃ u, readPhase phase n t = .raised (report .readFail n 0) u ∧ Consumed s u k) := by
  unfold readPhase
  rcases uartRead_takes n { t with rxstate := phase } with
    ⟨b, u, hu, hk, hb, hq, _, _, _, hc, _, _⟩ | ⟨u, hu, hk, hq, _, _, _, hc, _, _⟩
  · refine .inl ⟨b, _, by rw [hu]; rfl, hb, ⟨h.toRecvKeeps.trans ?_, ?_, ?_⟩⟩
    · obtain ⟨⟨a1, a2, a3, a4, a5, a6, a7, a8, a9, a10, a11, a12⟩, b1, b2, b3, b4, b5, b6⟩ := hk
      exact ⟨⟨a1, a2, a3, a4, a5, a6, a7, a8, a9, a10, a11, a12⟩, b1, b2, b3, b4, b5, b6⟩
    · simp only [hc, h.rxcnt, ofNat9_add]
    · rw [List.append_assoc] at hq
      have h1 := drop_prefix_of_append hq
      have h2 : (s.rxq.drop k).drop b.length <+: t.rxq.drop b.length := h.rxq.drop _
      rw [List.drop_drop] at h2
      exact h2.trans h1
  · refine .inr ⟨u, by rw [hu]; rfl, ⟨h.toRecvKeeps.trans ?_, ?_, ?_⟩⟩
    · obtain ⟨⟨a1, a2, a3, a4, a5, a6, a7, a8, a9, a10, a11, a12⟩, b1, b2, b3, b4, b5, b6⟩ := hk
      exact ⟨⟨a1, a2, a3, a4, a5, a6, a7, a8, a9, a10, a11, a12⟩, b1, b2, b3, b4, b5, b6⟩
    · rw [hc, h.rxcnt]
    · rw [hq, List.append_assoc]
      exact h.rxq.trans (List.prefix_append _ _)

/-- A change of the receive buffers or of the sequencer, `KIDX` included, does not matter to `Consumed`. -/
theorem Consumed.buffers {s t : State} {n : Nat} (h : Consumed s t n) (rxhdr : Vector Byte 4) (rxbody : Vector Byte 255)
    (rxftr : Vector Byte 4) (rxstate : RxState) (kidx : BitVec 4) :
    Consumed s { t with rxhdr := rxhdr, rxbody := rxbody, rxftr := rxftr, rxstate := rxstate, kidx := kidx } n := by
  obtain ⟨⟨⟨a1, a2, a3, a4, a5, a6, a7, a8, a9, a10, a11, a12⟩, b1, b2, b3, b4, b5, b6⟩, c1, c2⟩ := h
  exact ⟨⟨⟨a1, a2, a3, a4, a5, a6, a7, a8, a9, a10, a11, a12⟩, b1, b2, b3, b4, b5, b6⟩, c1, c2⟩

/-- An error of RECV's part: a channel failure or a framing error (R131, R164). -/
structure RecvRaise (e : Raise) : Prop where
  cls : e.cls = .transportError ∨ e.cls = .framingError
  sub : classOfSub e.sub = e.cls
  off : e.off = 0

theorem recvRaise_report {sub : ErrSub} {exp act : Nat}
    (h : classOfSub sub = .transportError ∨ classOfSub sub = .framingError) : RecvRaise (report sub exp act) :=
  ⟨h, rfl, rfl⟩

/-- How a part of RECV ends: what it has consumed in all is at most `m`; its error is RECV's. -/
inductive RecvEnds {α : Type} (s : State) (m : Nat) (good : α → Nat → Prop) : Ran α → Prop where
  | done {a : α} {t : State} {n : Nat} : Consumed s t n → n ≤ m → good a n → RecvEnds s m good (.done a t)
  | raised {e : Raise} {t : State} {n : Nat} : Consumed s t n → n ≤ m → RecvRaise e → RecvEnds s m good (.raised e t)

theorem recvHeader_ends (s : State) : RecvEnds s 4 (fun _ n => n = 4) (recvHeader s) := by
  have h0 : Consumed s { s with rxcnt := 0 } 0 :=
    ⟨⟨⟨rfl, rfl, rfl, rfl, rfl, rfl, rfl, rfl, rfl, rfl, rfl, List.prefix_rfl⟩, rfl, rfl, rfl, rfl, rfl, rfl⟩, rfl,
      List.prefix_rfl⟩
  unfold recvHeader
  rcases readPhase_consumes .rxHdr 4 h0 with ⟨b, u, hu, hb, hc⟩ | ⟨u, hu, hc⟩
  · rw [hu, andThen_done]
    rw [Nat.zero_add] at hc
    split
    · exact .raised hc hb (recvRaise_report (.inr rfl))
    · have hb4 : b.length = 4 := by omega
      split
      · exact .raised hc hb (recvRaise_report (.inr rfl))
      · split
        · exact .raised hc hb (recvRaise_report (.inr rfl))
        · exact .done (hc.buffers _ u.rxbody u.rxftr u.rxstate u.kidx) hb hb4
  · rw [hu, andThen_raised]
    exact .raised hc (by omega) (recvRaise_report (.inl rfl))

theorem recvPayload_ends (n : Nat) {s t : State} {k : Nat} (h : Consumed s t k) :
    RecvEnds s (k + n) (fun b m => b.length = n ∧ m = k + n) (recvPayload n t) := by
  unfold recvPayload
  rcases readPhase_consumes .rxBody n h with ⟨b, u, hu, hb, hc⟩ | ⟨u, hu, hc⟩
  · rw [hu, andThen_done]
    split
    · exact .raised hc (by omega) (recvRaise_report (.inr rfl))
    · exact .done (hc.buffers u.rxhdr _ u.rxftr u.rxstate u.kidx) (by omega) (by omega)
  · rw [hu, andThen_raised]
    exact .raised hc (by omega) (recvRaise_report (.inl rfl))

theorem recvFooter_ends {s t : State} {k : Nat} (h : Consumed s t k) :
    RecvEnds s (k + 4) (fun _ m => m = k + 4) (recvFooter t) := by
  unfold recvFooter
  rcases readPhase_consumes .rxFtr 4 h with ⟨b, u, hu, hb, hc⟩ | ⟨u, hu, hc⟩
  · rw [hu, andThen_done]
    split
    · exact .raised hc (by omega) (recvRaise_report (.inr rfl))
    · split
      · exact .raised (hc.buffers u.rxhdr u.rxbody _ u.rxstate u.kidx) (by omega) (recvRaise_report (.inr rfl))
      · exact .done (hc.buffers u.rxhdr u.rxbody _ u.rxstate u.kidx) (by omega) (by omega)
  · rw [hu, andThen_raised]
    exact .raised hc (by omega) (recvRaise_report (.inl rfl))

/-- However RECV's part ends, it has consumed at most one frame, from the head of the queue, and `RXCNT` says how much;
a body it returns has at most 255 bytes. -/
theorem recvBody_ends (p : Params) (s : State) :
    RecvEnds s 263 (fun r _ => r.length ≤ 255) (recvBody p s) := by
  unfold recvBody
  have hh := recvHeader_ends s
  revert hh
  generalize recvHeader s = r
  rintro (⟨hc, -, rfl⟩ | ⟨hc, hn, he⟩)
  · rename_i len t
    have hlen : len.toNat ≤ 255 := by have := len.isLt; omega
    rw [andThen_done]
    have hp := recvPayload_ends len.toNat hc
    revert hp
    generalize recvPayload len.toNat t = r
    rintro (⟨hc, -, hb, rfl⟩ | ⟨hc, hn, he⟩)
    · rename_i b t
      rw [andThen_done]
      have hf := recvFooter_ends hc
      revert hf
      generalize recvFooter t = r
      rintro (⟨hc, -, rfl⟩ | ⟨hc, hn, he⟩)
      · rename_i u t
        rw [andThen_done, obfMessage_eq]
        exact .done (hc.buffers t.rxhdr t.rxbody t.rxftr _ _) (by omega) (by rw [obf_length]; omega)
      · exact .raised hc (by omega) he
    · exact .raised hc (by omega) he
  · exact .raised hc (by omega) he

theorem recvBody_last (p : Params) (s : State) : ∃ n, n ≤ 263 ∧ Consumed s (recvBody p s).last n := by
  have h := recvBody_ends p s
  revert h
  generalize recvBody p s = r
  rintro (⟨hc, hn, -⟩ | ⟨hc, hn, -⟩)
  · exact ⟨_, hn, hc⟩
  · exact ⟨_, hn, hc⟩

/-- When RECV's part is done the receiver is idle. -/
theorem recvBody_done {p : Params} {s t : State} {r : Bytes} (h : recvBody p s = .done r t) : t.rxstate = .rxIdle := by
  unfold recvBody at h
  cases h1 : recvHeader s with
  | raised e u => rw [h1] at h; contradiction
  | done len u =>
    rw [h1, andThen_done] at h
    cases h2 : recvPayload len.toNat u with
    | raised e u => rw [h2] at h; contradiction
    | done b u =>
      rw [h2, andThen_done] at h
      cases h3 : recvFooter u with
      | raised e u => rw [h3] at h; contradiction
      | done x u =>
        rw [h3, andThen_done, obfMessage_eq] at h
        cases h
        rfl

/-! ## `BUSY` and `OP` do not matter to the parts of an operation -/

/-- The same end, in a state whose `BUSY` is 1 and whose `OP` is `name`. -/
def Ran.under {α : Type} (name : OpName) : Ran α → Ran α
  | .done a s => .done a (beginOp name s)
  | .raised e s => .raised e (beginOp name s)

@[simp] theorem Ran.under_done {α : Type} (name : OpName) (a : α) (s : State) :
    (Ran.done a s).under name = .done a (beginOp name s) := rfl

@[simp] theorem Ran.under_raised {α : Type} (name : OpName) (e : Raise) (s : State) :
    (Ran.raised e s : Ran α).under name = .raised e (beginOp name s) := rfl

theorem andThen_under {α β : Type} {name : OpName} {r : Ran α} {k : α → State → Ran β}
    (hk : ∀ a s, k a (beginOp name s) = (k a s).under name) : andThen (r.under name) k = (andThen r k).under name := by
  cases r with
  | done a s => exact hk a s
  | raised e s => rfl

@[simp] theorem endOp_under (name : OpName) (r : Ran Result) : endOp (r.under name) = endOp r := by cases r <;> rfl

@[simp] theorem result_under {α : Type} (name : OpName) (mk : α → Result) (r : Ran α) :
    result mk (r.under name) = (result mk r).under name := by cases r <;> rfl

theorem uartWrite_under (name : OpName) (out : Bytes) (s : State) :
    uartWrite out (beginOp name s) = (uartWrite out s).under name := by
  unfold uartWrite uartWriteBy
  rw [show nextWrite out (beginOp name s) = nextWrite out s from rfl]
  cases h : (nextWrite out s).fail <;> cases out <;> simp only [h] <;> rfl

theorem uartRead_under (name : OpName) (n : Nat) (s : State) :
    uartRead n (beginOp name s) = (uartRead n s).under name := by
  unfold uartRead
  rw [show nextRead n (beginOp name s) = nextRead n s from rfl]
  simp only
  split <;> rfl

theorem sendBody_under (name : OpName) (p : Params) (body : Bytes) (s : State) :
    sendBody p body (beginOp name s) = (sendBody p body s).under name := by
  simp only [sendBody, crcMessage, andThen_done, obfMessage_eq, transmit_eq]
  generalize frameHeader body.length ++ obf p.key (body ++ le16 (crc16 body)) ++ footerMagic = frame
  have h := uartWrite_under name frame
    { s with crc := crc16 body, kidx := BitVec.ofNat 4 (body ++ le16 (crc16 body)).length }
  rw [show { beginOp name s with
      crc := crc16 body, kidx := BitVec.ofNat 4 (body ++ le16 (crc16 body)).length } =
    beginOp name { s with crc := crc16 body, kidx := BitVec.ofNat 4 (body ++ le16 (crc16 body)).length } from rfl, h]
  cases uartWrite frame
    { s with crc := crc16 body, kidx := BitVec.ofNat 4 (body ++ le16 (crc16 body)).length } <;> rfl

theorem readPhase_under (name : OpName) (phase : RxState) (n : Nat) (s : State) :
    readPhase phase n (beginOp name s) = (readPhase phase n s).under name := by
  unfold readPhase
  rw [show { beginOp name s with rxstate := phase } = beginOp name { s with rxstate := phase } from rfl, uartRead_under]
  exact andThen_under fun _ _ => rfl

theorem recvHeader_under (name : OpName) (s : State) : recvHeader (beginOp name s) = (recvHeader s).under name := by
  unfold recvHeader
  rw [show { beginOp name s with rxcnt := 0 } = beginOp name { s with rxcnt := 0 } from rfl, readPhase_under]
  refine andThen_under fun h t => ?_
  split
  · rfl
  · split
    · rfl
    · split <;> rfl

theorem recvPayload_under (name : OpName) (n : Nat) (s : State) :
    recvPayload n (beginOp name s) = (recvPayload n s).under name := by
  unfold recvPayload
  rw [readPhase_under]
  refine andThen_under fun b t => ?_
  split <;> rfl

theorem recvFooter_under (name : OpName) (s : State) : recvFooter (beginOp name s) = (recvFooter s).under name := by
  unfold recvFooter
  rw [readPhase_under]
  refine andThen_under fun f t => ?_
  split
  · rfl
  · split <;> rfl

theorem recvBody_under (name : OpName) (p : Params) (s : State) :
    recvBody p (beginOp name s) = (recvBody p s).under name := by
  unfold recvBody
  rw [recvHeader_under]
  refine andThen_under fun len t => ?_
  rw [recvPayload_under]
  refine andThen_under fun b u => ?_
  rw [recvFooter_under]
  exact andThen_under fun _ _ => rfl

end Sys2Proof.Machine
end

