-- ==== Sys2Proof/Laws/Command.lean ====
section
/-! SUPPORT. The command layer: its bodies, one exchange, the retry loop of HANDSHAKE, FWEXTRACT. -/

namespace Sys2Proof.Machine

open Sys2Proof.Safety

/-! ## Bodies -/

theorem params_wf : Config.params.wf := by
  have h1 := Config.helloLen.isLt
  have h2 := Config.resetLen.isLt
  simp only [Params.wf, Config.params, Config.maxBody, List.length_take, Vector.length_toList]
  omega

theorem readBody_eq (offset : Word) (length : Byte) : readBody Config.params offset length = readCommand offset length := by
  simp [readBody, readCommand, Config.params, le16, Config.rdInnerLen, Config.hdrRsvd]

theorem writeBody_eq (data : Bytes) (offset : Word) : writeBody Config.params data offset = writeCommand data offset := by
  simp [writeBody, writeCommand, Config.params, le16, len8, Config.wrFlag, Config.hdrRsvd]

theorem readBody_length (p : Params) (offset : Word) (length : Byte) : (readBody p offset length).length = 12 := by
  simp [readBody, le16]

theorem writeBody_length (p : Params) (data : Bytes) (offset : Word) :
    (writeBody p data offset).length = 12 + data.length := by
  simp [writeBody, le16]; omega

theorem onLine_eq (r : Bytes) : onLine r = obf Config.key r := rfl

@[simp] theorem onLine_onLine (r : Bytes) : onLine (onLine r) = r := by rw [onLine_eq, onLine_eq, obf_obf]

@[simp] theorem onLine_length (r : Bytes) : (onLine r).length = r.length := by rw [onLine_eq, obf_length]

/-! ## One exchange -/

/-- An exchange in which the channel takes the command and the line gives a frame is a SEND and a RECV that return. -/
theorem exchange_ok {body r : Bytes} {f0 f1 : Byte} {s : State} (h : Exchange body r f0 f1 s) :
    sendBody Config.params body s = .done () (afterSend body s) ∧
    recvBody Config.params (afterSend body s) = .done r (afterExchange body r f0 f1 s) :=
  ⟨sendBody_ok h.1, by rw [recvBody_ok h.2, onLine_onLine]; rfl⟩

/-- What an exchange leaves, however it ends, for a command body of `len` bytes. -/
structure ExchangeKeeps (len : Nat) (s t : State) : Prop extends PartKeeps s t where
  tries : t.tries = s.tries
  txcnt : ∃ n, n ≤ len + 8 ∧ t.txcnt = BitVec.ofNat 9 n
  rx    : (t.rxcnt = s.rxcnt ∧ s.rxq <+: t.rxq) ∨
    ∃ n, n ≤ 263 ∧ t.rxcnt = BitVec.ofNat 9 n ∧ s.rxq.drop n <+: t.rxq

/-- SEND's part, RECV's part and a check of the reply that touches no state. -/
theorem exchange_last {α : Type} (p : Params) (body : Bytes) (check : Bytes → State → Ran α)
    (hcheck : ∀ r t, (check r t).last = t) (s : State) :
    ExchangeKeeps body.length s
      (andThen (sendBody p body s) fun _ s => andThen (recvBody p s) fun r s => check r s).last := by
  obtain ⟨hk, n, hn, hx⟩ := sendBody_last p body s
  cases hs : sendBody p body s with
  | raised e t =>
    rw [hs, Ran.last_raised] at hk hx
    exact ⟨hk.toPartKeeps, hk.tries, ⟨n, hn, hx⟩, .inl ⟨hk.rxcnt, hk.rxq⟩⟩
  | done u t =>
    rw [hs, Ran.last_done] at hk hx
    rw [andThen_done]
    have hr := recvBody_ends p t
    revert hr
    generalize recvBody p t = r
    rintro (⟨hc, hm, -⟩ | ⟨hc, hm, -⟩)
    · rename_i r t' m
      rw [andThen_done, hcheck]
      exact ⟨hk.toPartKeeps.trans hc.toPartKeeps, hc.tries.trans hk.tries, ⟨n, hn, hc.txcnt.trans hx⟩,
        .inr ⟨m, hm, hc.rxcnt, (hk.rxq.drop m).trans hc.rxq⟩⟩
    · rename_i e t' m
      exact ⟨hk.toPartKeeps.trans hc.toPartKeeps, hc.tries.trans hk.tries, ⟨n, hn, hc.txcnt.trans hx⟩,
        .inr ⟨m, hm, hc.rxcnt, (hk.rxq.drop m).trans hc.rxq⟩⟩

/-- How an exchange ends: with an error of SEND or RECV, or with the check of a reply, both sequencers idle. -/
theorem exchange_cases {α : Type} (p : Params) (body : Bytes) (check : Bytes → State → Ran α) (s : State) :
    (∃ e t, (andThen (sendBody p body s) fun _ s => andThen (recvBody p s) fun r s => check r s) = .raised e t ∧
      RecvRaise e) ∨
    (∃ r t, (andThen (sendBody p body s) fun _ s => andThen (recvBody p s) fun r s => check r s) = check r t ∧
      r.length ≤ 255 ∧ t.txstate = .txIdle ∧ t.rxstate = .rxIdle) := by
  cases hs : sendBody p body s with
  | raised e t =>
    obtain ⟨h1, h2, h3⟩ := sendBody_raises hs
    exact .inl ⟨e, t, rfl, .inl h2, by rw [h1, h2]; rfl, h3⟩
  | done u t =>
    rw [andThen_done]
    have hrecv := recvBody_ends p t
    cases hr : recvBody p t with
    | raised e t' =>
      rw [hr] at hrecv
      obtain ⟨⟩ | ⟨-, -, he⟩ := hrecv
      exact .inl ⟨e, t', rfl, he⟩
    | done r t' =>
      rw [hr] at hrecv
      obtain ⟨hc, -, hl⟩ | ⟨⟩ := hrecv
      exact .inr ⟨r, t', rfl, hl, by rw [hc.txstate, sendBody_done hs], recvBody_done hr⟩

theorem checkRead_last (length : Byte) (r : Bytes) (t : State) : (checkRead length r t).last = t := by
  unfold checkRead; split <;> rfl

theorem checkAck_last (p : Params) (offset : Word) (r : Bytes) (t : State) : (checkAck p offset r t).last = t := by
  unfold checkAck; (repeat' split) <;> rfl

/-! ## HANDSHAKE's loop -/

/-- What every end of the loop leaves, `m` being the most bytes it may have consumed: the counters are those of a frame or
as they were. -/
structure LoopKeeps (m : Nat) (s t : State) : Prop extends PartKeeps s t where
  tries : t.tries = s.tries ∨ t.tries.toNat ≤ 5
  txcnt : t.txcnt = s.txcnt ∨ t.txcnt.toNat ≤ 263
  rxcnt : t.rxcnt = s.rxcnt ∨ t.rxcnt.toNat ≤ 263
  rxq   : ∃ k, k ≤ m ∧ s.rxq.drop k <+: t.rxq

theorem LoopKeeps.trans {a b : Nat} {s t u : State} (h : LoopKeeps a s t) (h' : LoopKeeps b t u) :
    LoopKeeps (a + b) s u where
  toPartKeeps := h.toPartKeeps.trans h'.toPartKeeps
  tries := h'.tries.elim (fun e => e ▸ h.tries) .inr
  txcnt := h'.txcnt.elim (fun e => e ▸ h.txcnt) .inr
  rxcnt := h'.rxcnt.elim (fun e => e ▸ h.rxcnt) .inr
  rxq := by
    obtain ⟨k, hk, hq⟩ := h.rxq
    obtain ⟨k', hk', hq'⟩ := h'.rxq
    refine ⟨k + k', by omega, ?_⟩
    have := (hq.drop k').trans hq'
    rwa [List.drop_drop] at this

theorem toNat_ofNat9_le {n : Nat} (h : n ≤ 263) : (BitVec.ofNat 9 n).toNat ≤ 263 := by
  simp only [BitVec.toNat_ofNat]; omega

theorem toNat_ofNat3_le {n : Nat} (h : n ≤ 5) : (BitVec.ofNat 3 n).toNat ≤ 5 := by
  simp only [BitVec.toNat_ofNat]; omega

/-- An error that can end HANDSHAKE (R164). -/
structure HandshakeRaise (e : Raise) : Prop where
  cls : e.cls = .transportError ∨ e.cls = .framingError ∨ e.cls = .initializationError
  sub : classOfSub e.sub = e.cls
  off : e.off = 0

theorem sendBody_handshakeRaise {p : Params} {body : Bytes} {s t : State} {e : Raise}
    (h : sendBody p body s = .raised e t) : HandshakeRaise e := by
  obtain ⟨h1, h2, h3⟩ := sendBody_raises h
  exact ⟨.inl h2, by rw [h1, h2]; rfl, h3⟩

theorem RecvRaise.handshakeRaise {e : Raise} (h : RecvRaise e) : HandshakeRaise e :=
  ⟨h.cls.imp id .inl, h.sub, h.off⟩

/-- One exchange as the loop sees it. -/
theorem ExchangeKeeps.loopKeeps {len : Nat} {s t : State} (hl : len ≤ 255) (h : ExchangeKeeps len s t) :
    LoopKeeps 263 s t where
  toPartKeeps := h.toPartKeeps
  tries := .inl h.tries
  txcnt := by
    obtain ⟨n, hn, hx⟩ := h.txcnt
    exact .inr (hx ▸ toNat_ofNat9_le (by omega))
  rxcnt := by
    rcases h.rx with ⟨h1, -⟩ | ⟨n, hn, h1, -⟩
    · exact .inl h1
    · exact .inr (h1 ▸ toNat_ofNat9_le hn)
  rxq := by
    rcases h.rx with ⟨-, h2⟩ | ⟨n, hn, -, h2⟩
    · exact ⟨0, by omega, h2⟩
    · exact ⟨n, hn, h2⟩

theorem helloLoop_last {p : Params} (hp : p.helloBody.length ≤ 255) (n : Nat) (hn : n ≤ 5) (s : State) :
    LoopKeeps (n * 263) s (helloLoop p n s).last := by
  induction n generalizing s with
  | zero => exact ⟨.refl s, .inl rfl, .inl rfl, .inl rfl, 0, by omega, List.prefix_rfl⟩
  | succ n ih =>
    have hx := (exchange_last p p.helloBody (fun r t => .done r t) (fun _ _ => rfl) s).loopKeeps hp
    rw [helloLoop]
    cases hs : sendBody p p.helloBody s with
    | raised e t =>
      rw [hs, andThen_raised, Ran.last_raised] at hx
      rw [show (n + 1) * 263 = 263 + n * 263 by omega]
      exact hx.trans ⟨.refl t, .inl rfl, .inl rfl, .inl rfl, 0, by omega, List.prefix_rfl⟩
    | done u t =>
      rw [hs, andThen_done] at hx
      rw [andThen_done, show (n + 1) * 263 = 263 + n * 263 by omega]
      cases hr : recvBody p t with
      | raised e t' =>
        rw [hr, andThen_raised, Ran.last_raised] at hx
        exact hx.trans ⟨.refl t', .inl rfl, .inl rfl, .inl rfl, 0, by omega, List.prefix_rfl⟩
      | done r t' =>
        rw [hr, andThen_done, Ran.last_done] at hx
        rw [andThen_done]
        cases r with
        | cons b rest => exact hx.trans ⟨.refl t', .inl rfl, .inl rfl, .inl rfl, 0, by omega, List.prefix_rfl⟩
        | nil =>
          have h := ih (by omega) { t' with tries := BitVec.ofNat 3 n }
          have h' : LoopKeeps (n * 263) t' (helloLoop p n { t' with tries := BitVec.ofNat 3 n }).last :=
            ⟨⟨h.timeout, h.busy, h.op, h.err, h.errsub, h.errinfo, h.resp, h.fwstr, h.fwlen, h.moves, h.arrivals, h.txlog⟩,
              .inr (h.tries.elim (fun e => by rw [e]; exact toNat_ofNat3_le (by omega)) id), h.txcnt, h.rxcnt, h.rxq⟩
          exact hx.trans h'

/-- The loop's errors, and what it returns: a body that is not empty, with both sequencers idle. -/
theorem helloLoop_ends (p : Params) (n : Nat) (s : State) :
    (∃ e t, helloLoop p n s = .raised e t ∧ HandshakeRaise e) ∨
    (∃ r t, helloLoop p n s = .done r t ∧ r ≠ [] ∧ t.txstate = .txIdle ∧ t.rxstate = .rxIdle) := by
  induction n generalizing s with
  | zero => exact .inl ⟨_, _, rfl, .inr (.inr rfl), rfl, rfl⟩
  | succ n ih =>
    rw [helloLoop]
    cases hs : sendBody p p.helloBody s with
    | raised e t => exact .inl ⟨e, t, rfl, sendBody_handshakeRaise hs⟩
    | done u t =>
      rw [andThen_done]
      have hrecv := recvBody_ends p t
      cases hr : recvBody p t with
      | raised e t' =>
        rw [hr] at hrecv
        obtain ⟨⟩ | ⟨hc, hm, he⟩ := hrecv
        exact .inl ⟨e, t', rfl, he.handshakeRaise⟩
      | done r t' =>
        rw [hr] at hrecv
        obtain ⟨hc, hm, -⟩ | ⟨⟩ := hrecv
        rw [andThen_done]
        cases r with
        | nil => exact ih _
        | cons b rest =>
          exact .inr ⟨_, _, rfl, by simp, by rw [hc.txstate, sendBody_done hs], recvBody_done hr⟩

/-- How HANDSHAKE ends: with an error, or with a string that FWEXTRACT gives and that is committed; nothing else touches
the firmware string. -/
theorem handshakeBody_cases (s : State) :
    (∃ e t, handshakeBody Config.params s = .raised e t ∧ HandshakeRaise e ∧
      LoopKeeps (5 * 263) { s with tries := 5 } t) ∨
    (∃ b rest t, handshakeBody Config.params s = .done (b :: rest)
        { t with fwstr := overwrite t.fwstr (b :: rest), fwlen := BitVec.ofNat 5 (b :: rest).length } ∧
      (∃ r, fwExtract r = b :: rest) ∧ LoopKeeps (5 * 263) { s with tries := 5 } t ∧
      t.txstate = .txIdle ∧ t.rxstate = .rxIdle) := by
  have hl := helloLoop_last params_wf.1 5 (by omega) { s with tries := 5 }
  have hd : handshakeBody Config.params s = andThen (helloLoop Config.params 5 { s with tries := 5 }) commitFw := rfl
  rw [hd]
  rcases helloLoop_ends Config.params 5 { s with tries := 5 } with ⟨e, t, h, he⟩ | ⟨r, t, h, -, h1, h2⟩
  · rw [h] at hl ⊢
    exact .inl ⟨e, t, rfl, he, hl⟩
  · rw [h] at hl ⊢
    rw [andThen_done]
    unfold commitFw
    split
    · exact .inl ⟨_, _, rfl, ⟨.inr (.inr rfl), rfl, rfl⟩, hl⟩
    · rename_i b rest hb
      exact .inr ⟨b, rest, t, rfl, ⟨r, hb⟩, hl, h1, h2⟩

/-- Attempts with an empty reply in a row use up as many of those left. -/
theorem helloLoop_empty {k n : Nat} {s t : State} (hk : k ≤ n) (h : EmptyReplies k n s t) :
    helloLoop Config.params n s = helloLoop Config.params (n - k) t := by
  induction k generalizing n s with
  | zero => cases h; rfl
  | succ k ih =>
    obtain ⟨f0, f1, hx, h⟩ := h
    obtain ⟨n, rfl⟩ : ∃ m, n = m + 1 := ⟨n - 1, by omega⟩
    obtain ⟨h1, h2⟩ := exchange_ok hx
    rw [helloLoop, h1, andThen_done, h2, andThen_done, show n + 1 - (k + 1) = n - k by omega]
    exact ih (by omega) h

/-! ## `BUSY` and `OP` do not matter to the composites -/

theorem addOff_under {α : Type} (name : OpName) (off : Word) (r : Ran α) :
    addOff off (r.under name) = (addOff off r).under name := by cases r <;> rfl

theorem helloLoop_under (name : OpName) (p : Params) (n : Nat) (s : State) :
    helloLoop p n (beginOp name s) = (helloLoop p n s).under name := by
  induction n generalizing s with
  | zero => rfl
  | succ n ih =>
    rw [helloLoop, helloLoop, sendBody_under]
    refine andThen_under fun _ t => ?_
    rw [recvBody_under]
    refine andThen_under fun r u => ?_
    cases r with
    | nil => exact ih { u with tries := BitVec.ofNat 3 n }
    | cons b rest => rfl

theorem handshakeBody_under (name : OpName) (p : Params) (s : State) :
    handshakeBody p (beginOp name s) = (handshakeBody p s).under name := by
  unfold handshakeBody
  rw [show { beginOp name s with tries := BitVec.ofNat 3 Config.handshakeTries } =
    beginOp name { s with tries := BitVec.ofNat 3 Config.handshakeTries } from rfl, helloLoop_under]
  refine andThen_under fun r t => ?_
  unfold commitFw
  cases fwExtract r <;> rfl

theorem exchange_under {α : Type} (name : OpName) (p : Params) (body : Bytes) {check : Bytes → State → Ran α}
    (hcheck : ∀ r t, check r (beginOp name t) = (check r t).under name) (s : State) :
    (andThen (sendBody p body (beginOp name s)) fun _ s => andThen (recvBody p s) fun r s => check r s) =
      (andThen (sendBody p body s) fun _ s => andThen (recvBody p s) fun r s => check r s).under name := by
  rw [sendBody_under]
  refine andThen_under fun _ t => ?_
  rw [recvBody_under]
  exact andThen_under hcheck

theorem readBlockBody_under (name : OpName) (p : Params) (offset : Word) (length : Byte) (s : State) :
    readBlockBody p offset length (beginOp name s) = (readBlockBody p offset length s).under name := by
  unfold readBlockBody
  rw [exchange_under name p _ (fun r t => by unfold checkRead; split <;> rfl), addOff_under]

theorem writeBlockBody_under (name : OpName) (p : Params) (data : Bytes) (offset : Word) (s : State) :
    writeBlockBody p data offset (beginOp name s) = (writeBlockBody p data offset s).under name := by
  unfold writeBlockBody
  rw [exchange_under name p _ (fun r t => by unfold checkAck; (repeat' split) <;> rfl), addOff_under]

/-! ## FWEXTRACT -/

theorem fwTake_prefix (room : Nat) (r : Bytes) : fwTake room r <+: r := by
  induction room generalizing r with
  | zero => exact List.nil_prefix
  | succ room ih =>
    cases r with
    | nil => exact List.nil_prefix
    | cons b rest =>
      rw [fwTake]
      split
      · exact List.prefix_cons_inj b |>.mpr (ih rest)
      · exact List.nil_prefix

theorem fwTake_length (room : Nat) (r : Bytes) : (fwTake room r).length ≤ room := by
  induction room generalizing r with
  | zero => simp [fwTake]
  | succ room ih =>
    cases r with
    | nil => simp [fwTake]
    | cons b rest =>
      rw [fwTake]
      split
      · simpa using ih rest
      · simp

theorem printable_iff (b : Byte) : printable b = true ↔ 0x20 ≤ b.toNat ∧ b.toNat ≤ 0x7E := by
  simp [printable, Config.fwPrintLo, Config.fwPrintHi, BitVec.le_def]

theorem fwTake_printable (room : Nat) (r : Bytes) : ∀ b ∈ fwTake room r, printable b = true := by
  induction room generalizing r with
  | zero => simp [fwTake]
  | succ room ih =>
    cases r with
    | nil => simp [fwTake]
    | cons b rest =>
      rw [fwTake]
      split
      · rename_i h
        simpa [h] using ih rest
      · simp

/-- Where the run stops before its room is used up, the next byte is not printable. -/
theorem fwTake_stops (room : Nat) (r : Bytes) :
    (fwTake room r).length = room ∨ ∀ b, r[(fwTake room r).length]? = some b → printable b = false := by
  induction room generalizing r with
  | zero => simp [fwTake]
  | succ room ih =>
    cases r with
    | nil => simp [fwTake]
    | cons b rest =>
      rw [fwTake]
      split
      · simpa using ih rest
      · rename_i h
        exact .inr fun c hc => by simp at hc; subst hc; simpa using h

end Sys2Proof.Machine
end

