-- ==== Sys2Proof/Laws/Decode.lean ====
section
/-! SUPPORT. The encoder's operand forms: each parser takes back what the encoder of its form wrote, and leaves the rest. -/

namespace Sys2Proof

theorem decodeNat_encodeNatFuel (fuel n : Nat) (h : n ≤ fuel) (rest : Bytes) :
    decodeNat (encodeNatFuel fuel n ++ rest) = some (n, rest) := by
  induction fuel generalizing n with
  | zero =>
    obtain rfl : n = 0 := by omega
    rfl
  | succ fuel ih =>
    rw [encodeNatFuel]
    by_cases hn : n < 128
    · have hb : (BitVec.ofNat 8 n).toNat = n := by simp only [BitVec.toNat_ofNat]; omega
      rw [if_pos hn, List.singleton_append, decodeNat, hb, if_pos hn]
    · have hb : (BitVec.ofNat 8 (n % 128 + 128)).toNat = n % 128 + 128 := by simp only [BitVec.toNat_ofNat]; omega
      rw [if_neg hn, List.cons_append, decodeNat, hb, if_neg (by omega), ih (n / 128) (by omega)]
      simp only [Option.some.injEq, Prod.mk.injEq, and_true]
      omega

theorem decodeNat_encodeNat (n : Nat) (rest : Bytes) : decodeNat (encodeNat n ++ rest) = some (n, rest) :=
  decodeNat_encodeNatFuel n n (Nat.le_refl n) rest

theorem decodeBytes_encodeBytes (s rest : Bytes) : decodeBytes (encodeBytes s ++ rest) = some (s, rest) := by
  simp [decodeBytes, encodeBytes, decodeNat_encodeNat, splitExact]

theorem decodeDuration_encodeDuration (t : Duration) (rest : Bytes) :
    decodeDuration (encodeDuration t ++ rest) = some (t, rest) := by
  simp [decodeDuration, encodeDuration, decodeNat_encodeNat]

theorem decodeWord_le16 (w : Word) (rest : Bytes) : decodeWord (Machine.le16 w ++ rest) = some (w, rest) := by
  have h : Machine.ofLe16 (Machine.lo8 w) (Machine.hi8 w) = w := by
    apply BitVec.eq_of_toNat_eq
    have := w.isLt
    simp only [Machine.ofLe16, Machine.lo8, Machine.hi8, BitVec.toNat_append, BitVec.toNat_setWidth,
      BitVec.toNat_ushiftRight, Nat.shiftRight_eq_div_pow]
    rw [← Nat.shiftLeft_add_eq_or_of_lt (by omega), Nat.shiftLeft_eq]
    omega
  simp [decodeWord, Machine.le16, h]

theorem decodeByte_cons (b : Byte) (rest : Bytes) : decodeByte (b :: rest) = some (b, rest) := rfl

/-- A request whose operands are all taken is the instruction. -/
theorem decode_of_operands {i : Instr} (h : decodeOperands (selector i) (encodeOperands i) = .ok (i, [])) :
    decode (encode i) = .ok i := by
  simp [decode, decodePrefix, encode, h]

end Sys2Proof
end

