-- ==== Sys2Proof/Laws/Exec.lean ====
section
/-! SUPPORT. `exec`, once for each kind of instruction: every operation of the block is a request that is refused or runs, and
every row of an incoming byte string is a delivery to `RXQ`. -/

namespace Sys2Proof.Machine

open Sys2Proof.Safety

/-! ## The end of an operation, field by field -/

@[simp] theorem endOp_crc (r : Ran Result) : (endOp r).crc = r.last.crc := by cases r <;> rfl
@[simp] theorem endOp_kidx (r : Ran Result) : (endOp r).kidx = r.last.kidx := by cases r <;> rfl
@[simp] theorem endOp_timeout (r : Ran Result) : (endOp r).timeout = r.last.timeout := by cases r <;> rfl
@[simp] theorem endOp_txlog (r : Ran Result) : (endOp r).txlog = r.last.txlog := by cases r <;> rfl
@[simp] theorem endOp_rxq (r : Ran Result) : (endOp r).rxq = r.last.rxq := by cases r <;> rfl
@[simp] theorem endOp_txcnt (r : Ran Result) : (endOp r).txcnt = r.last.txcnt := by cases r <;> rfl
@[simp] theorem endOp_rxcnt (r : Ran Result) : (endOp r).rxcnt = r.last.rxcnt := by cases r <;> rfl
@[simp] theorem endOp_rxhdr (r : Ran Result) : (endOp r).rxhdr = r.last.rxhdr := by cases r <;> rfl
@[simp] theorem endOp_rxbody (r : Ran Result) : (endOp r).rxbody = r.last.rxbody := by cases r <;> rfl
@[simp] theorem endOp_rxftr (r : Ran Result) : (endOp r).rxftr = r.last.rxftr := by cases r <;> rfl
@[simp] theorem endOp_tries (r : Ran Result) : (endOp r).tries = r.last.tries := by cases r <;> rfl
@[simp] theorem endOp_fwstr (r : Ran Result) : (endOp r).fwstr = r.last.fwstr := by cases r <;> rfl
@[simp] theorem endOp_fwlen (r : Ran Result) : (endOp r).fwlen = r.last.fwlen := by cases r <;> rfl
@[simp] theorem endOp_moves (r : Ran Result) : (endOp r).moves = r.last.moves := by cases r <;> rfl
@[simp] theorem endOp_arrivals (r : Ran Result) : (endOp r).arrivals = r.last.arrivals := by cases r <;> rfl
@[simp] theorem endOp_writes (r : Ran Result) : (endOp r).writes = r.last.writes := by cases r <;> rfl
@[simp] theorem endOp_reads (r : Ran Result) : (endOp r).reads = r.last.reads := by cases r <;> rfl
@[simp] theorem endOp_busy (r : Ran Result) : (endOp r).busy = false := by cases r <;> rfl
@[simp] theorem endOp_op (r : Ran Result) : (endOp r).op = .idle := by cases r <;> rfl

/-! ## `exec` -/

/-- `OP` while the instruction runs. -/
def opOf : Instr → OpName
  | .reserved => .idle
  | .obfRst => .obfRst
  | .obfByte _ => .obfByte
  | .obfMsg _ => .obfMsg
  | .crcClr => .crcClr
  | .crcByte _ => .crcByte
  | .crcMsg _ => .crcMsg
  | .uartSetto _ => .uartSetto
  | .uartWr _ => .uartWr
  | .uartRd _ => .uartRd
  | .send _ => .send
  | .recv => .recv
  | .handshake => .handshake
  | .readBlock _ _ => .readBlock
  | .writeBlock _ _ => .writeBlock
  | .devReset => .devReset
  | .frameCmd _ => .send
  | .frameReply _ _ _ => .idle
  | .bodyHello => .send
  | .bodyRead _ _ => .send
  | .bodyWrite _ _ => .send
  | .bodyReset => .send
  | .replyHello _ _ _ => .idle
  | .replyRead _ _ _ _ => .idle
  | .replyWriteAck _ _ _ _ _ => .idle

/-- SEND's part with no result. -/
abbrev sendRun (body : Bytes) (s : State) : Ran Result := result (fun _ => .none) (sendBody Config.params body s)

/-- What the instruction does between its entry and its end. -/
def runOf : Instr → State → Ran Result
  | .reserved, s => .done .none s
  | .obfRst, s => .done .none { s with kidx := 0 }
  | .obfByte b, s => result .byte (obfStep Config.params b s)
  | .obfMsg m, s => result .bytes (obfMessage Config.params m s)
  | .crcClr, s => .done .none { s with crc := Config.crcInit }
  | .crcByte b, s => result .word (crcStep b s)
  | .crcMsg m, s => result .word (crcMessage m s)
  | .uartSetto t, s => .done .none { s with timeout := t }
  | .uartWr m, s => result (fun _ => .none) (uartWrite m s)
  | .uartRd n, s => result .bytes (uartRead n s)
  | .send body, s => sendRun body s
  | .recv, s => result .bytes (recvBody Config.params s)
  | .handshake, s => result .bytes (handshakeBody Config.params s)
  | .readBlock offset length, s => result .bytes (readBlockBody Config.params offset length s)
  | .writeBlock data offset, s => result (fun _ => .none) (writeBlockBody Config.params data offset s)
  | .devReset, s => sendRun Config.params.resetBody s
  | .frameCmd body, s => sendRun body s
  | .frameReply _ _ _, s => .done .none s
  | .bodyHello, s => sendRun Config.params.helloBody s
  | .bodyRead offset length, s => sendRun (readBody Config.params offset length) s
  | .bodyWrite data offset, s => sendRun (writeBody Config.params data offset) s
  | .bodyReset, s => sendRun Config.params.resetBody s
  | .replyHello _ _ _, s => .done .none s
  | .replyRead _ _ _ _, s => .done .none s
  | .replyWriteAck _ _ _ _ _, s => .done .none s

/-- The frame an incoming row puts on the line. -/
def frameOf : Instr → Bytes
  | .frameReply body f0 f1 => replyFrame Config.key body f0 f1
  | .replyHello body f0 f1 => replyFrame Config.key body f0 f1
  | .replyRead head data f0 f1 => replyFrame Config.key (head ++ data) f0 f1
  | .replyWriteAck mid offset tail f0 f1 => replyFrame Config.key (ackBody Config.params mid offset tail) f0 f1
  | .reserved => []
  | .obfRst => []
  | .obfByte _ => []
  | .obfMsg _ => []
  | .crcClr => []
  | .crcByte _ => []
  | .crcMsg _ => []
  | .uartSetto _ => []
  | .uartWr _ => []
  | .uartRd _ => []
  | .send _ => []
  | .recv => []
  | .handshake => []
  | .readBlock _ _ => []
  | .writeBlock _ _ => []
  | .devReset => []
  | .frameCmd _ => []
  | .bodyHello => []
  | .bodyRead _ _ => []
  | .bodyWrite _ _ => []
  | .bodyReset => []

/-- Every operation of the block goes through the same entry, with the operand check of its instruction. -/
theorem exec_invokes {i : Instr} (h : invokesBlock i = true) (s : State) :
    exec i s = invoke (opOf i) i.wellFormed (runOf i) s := by
  cases i <;> first | rfl | exact absurd h (by simp [invokesBlock])

/-- `BUSY` and `OP` do not matter to what an instruction does between its entry and its end. -/
theorem runOf_under (name : OpName) (i : Instr) (s : State) : runOf i (beginOp name s) = (runOf i s).under name := by
  cases i <;> first | rfl | skip
  all_goals simp only [runOf, sendRun, sendBody_under, recvBody_under, uartWrite_under, uartRead_under,
    handshakeBody_under, readBlockBody_under, writeBlockBody_under, result_under]

/-- An operation that is admitted runs to its end. -/
theorem exec_runs {i : Instr} {s : State} (h : invokesBlock i = true) (hb : s.busy = false) (hf : i.wellFormed = true) :
    exec i s = .next (endOp (runOf i s)) := by
  rw [exec_invokes h, invoke_runs hb hf, runOf_under, endOp_under]

/-- What is no operation of the block is the reserved code or a delivery. -/
theorem exec_delivers {i : Instr} (h : invokesBlock i = false) (hr : i ≠ .reserved) (s : State) :
    exec i s = deliver i.wellFormed (frameOf i) s := by
  cases i <;> first | rfl | exact absurd rfl hr | exact absurd h (by simp [invokesBlock])

/-- Every instruction answers a next state: refused, run to its end, or a delivery. -/
theorem exec_cases (i : Instr) (s : State) :
    (∃ why, exec i s = .next (refuse why s)) ∨
    (invokesBlock i = true ∧ s.busy = false ∧ i.wellFormed = true ∧
      exec i s = .next (endOp (runOf i s))) ∨
    (invokesBlock i = false ∧ i.wellFormed = true ∧ exec i s = .next { s with rxq := s.rxq ++ frameOf i }) := by
  cases h : invokesBlock i with
  | true =>
    rw [exec_invokes h]
    rcases invoke_cases (opOf i) i.wellFormed (runOf i) s with ⟨-, h2⟩ | ⟨-, -, h2⟩ | ⟨h1, h2, h3⟩
    · exact .inl ⟨_, h2⟩
    · exact .inl ⟨_, h2⟩
    · rw [runOf_under, endOp_under] at h3
      exact .inr (.inl ⟨rfl, h1, h2, h3⟩)
  | false =>
    by_cases hr : i = .reserved
    · subst hr; exact .inl ⟨_, rfl⟩
    · rw [exec_delivers h hr]
      cases hw : i.wellFormed with
      | true => exact .inr (.inr ⟨rfl, rfl, by simp [deliver]⟩)
      | false => exact .inl ⟨.operandOutOfType, by simp [deliver]⟩

end Sys2Proof.Machine
end

