-- ==== Sys2Proof/Laws/PerInstr.lean ====
section
/-! SUPPORT. The statements made of each instruction by itself. Family `Selector`: a request that begins with the selector
of an instruction is a request for that operation (R75; the selectors from 0x10 on are log 2). -/

namespace Sys2Proof.Laws

/-- Whatever operands follow the selector of `i`, what is decoded has the selector of `i`. -/
def Selector.Statement (i : Instr) : Prop :=
  ∀ s j rest, decodePrefix (selector i :: s) = .ok (j, rest) → selector j = selector i

theorem selector_plain {i : Instr} (h : ∀ s, decodePrefix (selector i :: s) = .ok (i, s)) : Selector.Statement i := by
  intro s j rest hd
  rw [h] at hd
  cases hd
  rfl

theorem selector_operand {i : Instr} {α : Type} {parse : Bytes → Parsed α} {mk : α → Instr}
    (h : ∀ s, decodePrefix (selector i :: s) = withOperand (parse s) mk) (hm : ∀ x, selector (mk x) = selector i) :
    Selector.Statement i := by
  intro s j rest hd
  rw [h] at hd
  cases hp : parse s with
  | none => rw [hp] at hd; contradiction
  | some x => rw [hp] at hd; cases hd; exact hm x.1

theorem Selector.reserved : Selector.Statement .reserved := selector_plain fun _ => rfl
theorem Selector.obfRst : Selector.Statement .obfRst := selector_plain fun _ => rfl
theorem Selector.obfByte (b : Byte) : Selector.Statement (.obfByte b) := selector_operand (fun _ => rfl) fun _ => rfl
theorem Selector.obfMsg (m : Bytes) : Selector.Statement (.obfMsg m) := selector_operand (fun _ => rfl) fun _ => rfl
theorem Selector.crcClr : Selector.Statement .crcClr := selector_plain fun _ => rfl
theorem Selector.crcByte (b : Byte) : Selector.Statement (.crcByte b) := selector_operand (fun _ => rfl) fun _ => rfl
theorem Selector.crcMsg (m : Bytes) : Selector.Statement (.crcMsg m) := selector_operand (fun _ => rfl) fun _ => rfl
theorem Selector.uartSetto (t : Duration) : Selector.Statement (.uartSetto t) :=
  selector_operand (fun _ => rfl) fun _ => rfl
theorem Selector.uartWr (m : Bytes) : Selector.Statement (.uartWr m) := selector_operand (fun _ => rfl) fun _ => rfl
theorem Selector.uartRd (n : Nat) : Selector.Statement (.uartRd n) := selector_operand (fun _ => rfl) fun _ => rfl
theorem Selector.send (body : Bytes) : Selector.Statement (.send body) := selector_operand (fun _ => rfl) fun _ => rfl
theorem Selector.recv : Selector.Statement .recv := selector_plain fun _ => rfl
theorem Selector.handshake : Selector.Statement .handshake := selector_plain fun _ => rfl
theorem Selector.readBlock (offset : Word) (length : Byte) : Selector.Statement (.readBlock offset length) :=
  selector_operand (fun _ => rfl) fun _ => rfl
theorem Selector.writeBlock (data : Bytes) (offset : Word) : Selector.Statement (.writeBlock data offset) :=
  selector_operand (fun _ => rfl) fun _ => rfl
theorem Selector.devReset : Selector.Statement .devReset := selector_plain fun _ => rfl
theorem Selector.frameCmd (body : Bytes) : Selector.Statement (.frameCmd body) :=
  selector_operand (fun _ => rfl) fun _ => rfl
theorem Selector.frameReply (body : Bytes) (f0 : Byte) (f1 : Byte) : Selector.Statement (.frameReply body f0 f1) :=
  selector_operand (fun _ => rfl) fun _ => rfl
theorem Selector.bodyHello : Selector.Statement .bodyHello := selector_plain fun _ => rfl
theorem Selector.bodyRead (offset : Word) (length : Byte) : Selector.Statement (.bodyRead offset length) :=
  selector_operand (fun _ => rfl) fun _ => rfl
theorem Selector.bodyWrite (data : Bytes) (offset : Word) : Selector.Statement (.bodyWrite data offset) :=
  selector_operand (fun _ => rfl) fun _ => rfl
theorem Selector.bodyReset : Selector.Statement .bodyReset := selector_plain fun _ => rfl
theorem Selector.replyHello (body : Bytes) (f0 : Byte) (f1 : Byte) : Selector.Statement (.replyHello body f0 f1) :=
  selector_operand (fun _ => rfl) fun _ => rfl
theorem Selector.replyRead (head : Bytes) (data : Bytes) (f0 : Byte) (f1 : Byte) :
    Selector.Statement (.replyRead head data f0 f1) :=
  selector_operand (fun _ => rfl) fun _ => rfl
theorem Selector.replyWriteAck (mid : Bytes) (offset : Word) (tail : Bytes) (f0 : Byte) (f1 : Byte) :
    Selector.Statement (.replyWriteAck mid offset tail f0 f1) :=
  selector_operand (fun _ => rfl) fun _ => rfl

end Sys2Proof.Laws
end

