-- ==== Sys2Proof/Tests/Slice0.lean ====
section
/-! SUPPORT. Tests of the model, each on one step of a small state, with expected values from spec/95_test_vectors.md or from
the rule named; and, for every statement with hypotheses, a state and operands that meet them. -/

namespace Sys2Proof.Tests

set_option maxRecDepth 8000

open Sys2Proof.Machine Sys2Proof.Safety

/-! ## Helpers -/

/-- The ramp key `KR` of spec/95_test_vectors.md, with the candidate constants there. -/
def ramp : Params where
  key       := #v[0, 1, 2, 3, 4, 5, 6, 7, 8, 9, 10, 11, 12, 13, 14, 15]
  helloBody := [0x14, 0x05, 0x04, 0x00, 0x6A, 0x39, 0x57, 0x64]
  opcRead   := #v[0x1B, 0x05]
  opcWrite  := #v[0x1D, 0x05]
  rdFlag    := 0x00
  trailer   := #v[0x6A, 0x39, 0x57, 0x64]
  ackWrite  := 0x1E
  resetBody := [0xDD, 0x05, 0x00, 0x00]

/-- The next state of an outcome; every outcome of `exec` and `step` has one. -/
def after (o : Host.Outcome State Fault Refusal) : State :=
  match o with
  | .next t => t
  | _ => State.reset

/-- The channel takes a write whole. -/
def taken : WriteDraw := { fail := none, arrive := [] }

/-- A read during which nothing arrives. -/
def quiet : ReadDraw := { fail := false, inTime := [], late := [] }

/-- A read during which the bytes arrive in time. -/
def arriving (b : Bytes) : ReadDraw := { fail := false, inTime := b, late := [] }

/-- A read that the channel fails. -/
def failing : ReadDraw := { fail := true, inTime := [], late := [] }

/-- The three reads that give a frame with the obfuscated body `b`. -/
def frameReads (b : Bytes) (f0 f1 : Byte) : List ReadDraw :=
  [arriving [0xAB, 0xCD, BitVec.ofNat 8 b.length, 0x00], arriving b, arriving [f0, f1, 0xDC, 0xBA]]

/-- The state after reset with the environment's choices to come. -/
def scripted (writes : List WriteDraw) (reads : List ReadDraw) : State :=
  { State.reset with writes := writes, reads := reads }

/-- The state after reset with bytes waiting, and nothing more arriving. -/
def waiting (q : Bytes) : State := { scripted [taken] [quiet, quiet, quiet] with rxq := q }

/-- `exec` of the block with the ramp key, where a device answers each command with the frame of a body. -/
def answered (replies : List Bytes) : State :=
  scripted (List.replicate 5 taken) ((replies.map fun r => frameReads (obf ramp.key r) 0x00 0x00).flatten ++ [quiet])

/-! ## Well-formed and ill-formed operands -/

theorem test_send_fits : (Instr.send (List.replicate 255 0)).wellFormed = true := by decide
theorem test_send_too_long : (Instr.send (List.replicate 256 0)).wellFormed = false := by decide
theorem test_writeBlock_fits : (Instr.writeBlock (List.replicate 243 0) 0).wellFormed = true := by decide
theorem test_writeBlock_too_long : (Instr.writeBlock (List.replicate 244 0) 0).wellFormed = false := by decide
theorem test_setto_zero : (Instr.uartSetto ⟨0, 1⟩).wellFormed = false := by decide
theorem test_setto_infinite : (Instr.uartSetto ⟨1, 0⟩).wellFormed = false := by decide
theorem test_frameCmd_too_long : (Instr.frameCmd (List.replicate 256 0)).wellFormed = false := by decide
theorem test_frameReply_too_long : (Instr.frameReply (List.replicate 256 0) 0 0).wellFormed = false := by decide
theorem test_bodyWrite_too_long : (Instr.bodyWrite (List.replicate 244 0) 0).wellFormed = false := by decide
theorem test_replyHello_too_long : (Instr.replyHello (List.replicate 256 0) 0 0).wellFormed = false := by decide
theorem test_replyRead_short_head : (Instr.replyRead (List.replicate 7 0) [0] 0 0).wellFormed = false := by decide
theorem test_replyRead_long_head : (Instr.replyRead (List.replicate 9 0) [] 0 0).wellFormed = false := by decide
/-- R73: a read reply shorter than eight bytes has no data (V-RD-5, V-RD-6). -/
theorem test_replyRead_no_data : (Instr.replyRead [0x1C, 0x05] [] 0 0).wellFormed = true := by decide
theorem test_replyRead_too_long :
    (Instr.replyRead (List.replicate 8 0) (List.replicate 248 0) 0 0).wellFormed = false := by decide
theorem test_replyAck_short_mid : (Instr.replyWriteAck [1, 2] 0 [] 0 0).wellFormed = false := by decide
theorem test_replyAck_too_long :
    (Instr.replyWriteAck [1, 2, 3] 0 (List.replicate 250 0) 0 0).wellFormed = false := by decide

/-! ## Decoding words written out: `OPSEL` from the table of R75; the operands' bytes and the codes from 0x10 on are log 2 -/

theorem test_decode_reserved : decode [0x00] = .ok .reserved := by decide
theorem test_decode_obfRst : decode [0x01] = .ok .obfRst := by decide
theorem test_decode_obfByte : decode [0x02, 0xF0] = .ok (.obfByte 0xF0) := by decide
theorem test_decode_obfMsg : decode [0x03, 0x02, 0x41, 0x42] = .ok (.obfMsg [0x41, 0x42]) := by decide
theorem test_decode_crcClr : decode [0x04] = .ok .crcClr := by decide
theorem test_decode_crcByte : decode [0x05, 0x80] = .ok (.crcByte 0x80) := by decide
theorem test_decode_crcMsg : decode [0x06, 0x01, 0x80] = .ok (.crcMsg [0x80]) := by decide
theorem test_decode_uartSetto : decode [0x07, 0x01, 0x02] = .ok (.uartSetto ⟨1, 2⟩) := by decide
theorem test_decode_uartWr : decode [0x08, 0x02, 0xAB, 0xCD] = .ok (.uartWr [0xAB, 0xCD]) := by decide
theorem test_decode_uartRd : decode [0x09, 0xAC, 0x02] = .ok (.uartRd 300) := by decide
theorem test_decode_send : decode [0x0A, 0x03, 0x01, 0x02, 0x03] = .ok (.send [0x01, 0x02, 0x03]) := by decide
theorem test_decode_recv : decode [0x0B] = .ok .recv := by decide
theorem test_decode_handshake : decode [0x0C] = .ok .handshake := by decide
theorem test_decode_readBlock : decode [0x0D, 0x80, 0x1F, 0x04] = .ok (.readBlock 0x1F80 0x04) := by decide
theorem test_decode_writeBlock : decode [0x0E, 0x01, 0xDE, 0x70, 0x0E] = .ok (.writeBlock [0xDE] 0x0E70) := by decide
theorem test_decode_devReset : decode [0x0F] = .ok .devReset := by decide
theorem test_decode_frameCmd : decode [0x10, 0x01, 0x07] = .ok (.frameCmd [0x07]) := by decide
theorem test_decode_frameReply : decode [0x11, 0x01, 0x07, 0x55, 0xAA] = .ok (.frameReply [0x07] 0x55 0xAA) := by decide
theorem test_decode_bodyHello : decode [0x12] = .ok .bodyHello := by decide
theorem test_decode_bodyRead : decode [0x13, 0x80, 0x1F, 0x04] = .ok (.bodyRead 0x1F80 0x04) := by decide
theorem test_decode_bodyWrite : decode [0x14, 0x01, 0xDE, 0x70, 0x0E] = .ok (.bodyWrite [0xDE] 0x0E70) := by decide
theorem test_decode_bodyReset : decode [0x15] = .ok .bodyReset := by decide
theorem test_decode_replyHello : decode [0x16, 0x00, 0x55, 0xAA] = .ok (.replyHello [] 0x55 0xAA) := by decide
theorem test_decode_replyRead :
    decode [0x17, 0x01, 0x1C, 0x01, 0x11, 0x55, 0xAA] = .ok (.replyRead [0x1C] [0x11] 0x55 0xAA) := by decide
theorem test_decode_replyWriteAck :
    decode [0x18, 0x01, 0x05, 0x70, 0x0E, 0x00, 0x55, 0xAA] = .ok (.replyWriteAck [0x05] 0x0E70 [] 0x55 0xAA) := by decide

theorem test_decode_empty : decode [] = .error .emptyRequest := by decide
theorem test_decode_unknown : decode [0x19] = .error (.unknownSelector 0x19) := by decide
theorem test_decode_truncated : decode [0x0D, 0x80, 0x1F] = .error .truncatedOperand := by decide
theorem test_decode_trailing : decode [0x01, 0x00] = .error .trailingBytes := by decide

/-- The table's words: four bits of `OPSEL`, every operand byte zero. -/
theorem test_table_word_operand : decodeTableWord 4 0x2 = some (.obfByte 0) := by decide
theorem test_table_word_none : decodeTableWord 8 0x19 = none := by decide
theorem test_fetch_word :
    step (State.reset.withFetchWord 4 0xD) = exec (.readBlock 0 0) (arrive State.reset) := rfl

/-! ## Obfuscation codec (section 2.1 of the vectors) -/

/-- V-OBF-8, V-OBF-9. -/
theorem test_obfByte : (after (obfByteWith ramp 0x44 { State.reset with kidx := 3 })).resp = .returned (.byte 0x47) := by
  decide
theorem test_obfByte_wraps : (after (obfByteWith ramp 0xF0 { State.reset with kidx := 15 })).kidx = 0 := by decide
/-- V-OBF-3. -/
theorem test_obfMsg :
    (after (obfMsgWith ramp [0x41, 0x42, 0x43, 0x44, 0x45, 0x46, 0x47, 0x48, 0x49, 0x4A, 0x4B, 0x4C, 0x4D, 0x4E, 0x4F, 0x50,
      0x51, 0x52, 0x53, 0x54] State.reset)).resp =
    .returned (.bytes [0x41, 0x43, 0x41, 0x47, 0x41, 0x43, 0x41, 0x4F, 0x41, 0x43, 0x41, 0x47, 0x41, 0x43, 0x41, 0x5F, 0x51,
      0x53, 0x51, 0x57]) := by decide
/-- V-OBF-7. -/
theorem test_obfMsg_kidx : (after (obfMsgWith ramp (List.replicate 17 0xFF) State.reset)).kidx = 1 := by decide
theorem test_obfRst : (after (execObfRst { State.reset with kidx := 9 })).kidx = 0 := by decide

/-! ## CRC engine (section 2.2) -/

/-- V-CRC-26, V-CRC-24. -/
theorem test_crcByte : crcByte 0x1234 0x56 = 0x3C40 := by decide
theorem test_crcByte_high : crcByte 0xFFFF 0x00 = 0xE1F0 := by decide
/-- V-CRC-13. -/
theorem test_crcMsg : (after (execCrcMsg [0x01, 0x02, 0x03] State.reset)).resp = .returned (.word 0x6131) := by decide
theorem test_crcMsg_clears : (after (execCrcMsg [] { State.reset with crc := 0x1234 })).crc = 0x0000 := by decide
theorem test_crcClr : (after (execCrcClr { State.reset with crc := 0x1234 })).crc = 0x0000 := by decide
/-- V-CRC-17. -/
theorem test_crc_low_byte_first :
    crc16 [0x31, 0x32, 0x33, 0x34, 0x35, 0x36, 0x37, 0x38, 0x39, 0xC3, 0x31] = 0xBAFE := by decide

/-! ## UART byte-stream handler (section 2.3) -/

/-- V-UART-2. -/
theorem test_uartWr_prefix :
    (after (execUartWr [0x01, 0x02, 0x03]
      { scripted [{ fail := some 1, arrive := [] }] [] with txlog := [0xAB, 0xCD] })).txlog = [0xAB, 0xCD, 0x01] := by decide
theorem test_uartWr_error :
    (after (execUartWr [0x01, 0x02, 0x03] (scripted [{ fail := some 1, arrive := [] }] []))).errinfo = ⟨3, 1, 0⟩ := by decide
/-- V-UART-7. -/
theorem test_uartRd :
    (after (execUartRd 4 { scripted [] [arriving [0x03, 0x00, 0x01]] with rxq := [0xAB, 0xCD] })).resp =
      .returned (.bytes [0xAB, 0xCD, 0x03, 0x00]) := by decide
/-- V-UART-9. -/
theorem test_uartRd_fails : (after (execUartRd 2 { scripted [] [failing] with rxq := [0x11, 0x22] })).rxq = [0x11, 0x22] := by
  decide
/-- V-UART-10, V-UART-11. -/
theorem test_uartSetto : (after (execUartSetto ⟨2, 1⟩ State.reset)).timeout = ⟨2, 1⟩ := by decide
theorem test_uartSetto_zero : (after (execUartSetto ⟨0, 1⟩ State.reset)).timeout = ⟨1, 2⟩ := by decide

/-! ## Frame encoder (section 2.4) -/

/-- V-TX-1 under KR. -/
theorem test_send : (after (sendWith ramp [0x01, 0x02, 0x03] (scripted [taken] []))).txlog =
    [0xAB, 0xCD, 0x03, 0x00, 0x01, 0x03, 0x01, 0x32, 0x65, 0xDC, 0xBA] := by decide
/-- V-TX-16. -/
theorem test_send_fails :
    (after (sendWith ramp [0x01, 0x02, 0x03] (scripted [{ fail := some 6, arrive := [] }] []))).txlog =
      [0xAB, 0xCD, 0x03, 0x00, 0x01, 0x03] := by decide
/-- R122: `TXSTATE` before each byte of the 11-byte frame of a 3-byte body, and after the last. -/
theorem test_send_phases :
    (List.range 12).map (fun pos => (emitFrom 3 0 (List.replicate pos 0) State.reset).txstate) =
      [.txHdr, .txHdr, .txHdr, .txHdr, .txPayload, .txPayload, .txPayload, .txPayload, .txPayload, .txFtr, .txFtr, .txIdle] := by
  decide
/-- V-TX-8 and V-TX-9, the bodies. -/
theorem test_readBody :
    readBody ramp 0x0080 0x04 = [0x1B, 0x05, 0x08, 0x00, 0x80, 0x00, 0x04, 0x00, 0x6A, 0x39, 0x57, 0x64] := by decide
theorem test_writeBody :
    writeBody ramp [0xDE, 0xAD, 0xBE, 0xEF] 0x0E70 =
      [0x1D, 0x05, 0x0C, 0x00, 0x70, 0x0E, 0x04, 0x01, 0x6A, 0x39, 0x57, 0x64, 0xDE, 0xAD, 0xBE, 0xEF] := by decide

/-! ## Frame decoder (section 2.5) -/

/-- V-RX-2. -/
theorem test_recv :
    (after (recvWith ramp (waiting
      [0xAB, 0xCD, 0x03, 0x00, 0x01, 0x03, 0x01, 0x32, 0x65, 0xDC, 0xBA, 0x99, 0x98]))).resp =
      .returned (.bytes [0x01, 0x02, 0x03]) := by decide
theorem test_recv_leaves_rest :
    (after (recvWith ramp (waiting
      [0xAB, 0xCD, 0x03, 0x00, 0x01, 0x03, 0x01, 0x32, 0x65, 0xDC, 0xBA, 0x99, 0x98]))).rxq = [0x99, 0x98] := by decide
/-- The vectors V-RX-4, V-RX-17, V-RX-7, V-RX-8, V-RX-10, V-RX-11, V-RX-18: each way RECV can fail. -/
theorem witness_recv_shortHeader : (after (exec .recv (waiting [0xAB, 0xCD, 0x03]))).errsub = .shortHeader := by decide
theorem witness_recv_badHeaderMagic :
    (after (exec .recv (waiting [0xAA, 0xCD, 0x03, 0x01]))).errinfo = ⟨0xABCD, 0xAACD, 0⟩ := by decide
theorem witness_recv_badHeaderRsvd :
    (after (exec .recv (waiting [0xAB, 0xCD, 0x03, 0x01]))).errsub = .badHeaderRsvd := by decide
theorem witness_recv_shortBody :
    (after (exec .recv (waiting [0xAB, 0xCD, 0x03, 0x00, 0x01, 0x03]))).errinfo = ⟨3, 2, 0⟩ := by decide
theorem witness_recv_shortFooter :
    (after (exec .recv (waiting [0xAB, 0xCD, 0x03, 0x00, 0x01, 0x03, 0x01, 0x32, 0x65]))).errsub = .shortFooter := by decide
theorem witness_recv_badFooterMagic :
    (after (exec .recv (waiting [0xAB, 0xCD, 0x03, 0x00, 0x01, 0x03, 0x01, 0x32, 0x65, 0xDC, 0xBB]))).errinfo =
      ⟨0xDCBA, 0xDCBB, 0⟩ := by decide
theorem witness_recv_readFail : (after (exec .recv (scripted [] [failing]))).errsub = .readFail := by decide
theorem witness_recv_success :
    (after (exec .recv (waiting [0xAB, 0xCD, 0x00, 0x00, 0x12, 0x34, 0xDC, 0xBA]))).err = .none := by decide

/-! ## Command layer (sections 2.7 to 2.10) -/

/-- V-HS-2: four empty replies, then "KX 1.0". -/
theorem test_handshake_fifth :
    (after (handshakeWith ramp (answered [[], [], [], [],
      [0x15, 0x05, 0x0A, 0x00, 0x4B, 0x58, 0x20, 0x31, 0x2E, 0x30, 0x00, 0xFF, 0x41, 0x42]]))).resp =
      .returned (.bytes [0x4B, 0x58, 0x20, 0x31, 0x2E, 0x30]) := by decide
/-- V-HS-3. -/
theorem test_handshake_noReply :
    (after (handshakeWith ramp (answered [[], [], [], [], []]))).errsub = .noReply := by decide
/-- V-HS-10. -/
theorem test_fwExtract : fwExtract [0x15, 0x05, 0x03, 0x00, 0x20, 0x7E, 0x7F, 0x41] = [0x20, 0x7E] := by decide
/-- V-RD-1, V-RD-3. -/
theorem test_readBlock :
    (after (readBlockWith ramp 0x0080 0x04
      (answered [[0x1C, 0x05, 0x08, 0x00, 0x80, 0x00, 0x04, 0x00, 0x11, 0x22, 0x33, 0x44]]))).resp =
      .returned (.bytes [0x11, 0x22, 0x33, 0x44]) := by decide
theorem test_readBlock_longer :
    (after (readBlockWith ramp 0x0080 0x04
      (answered [[0x1C, 0x05, 0x09, 0x00, 0x80, 0x00, 0x04, 0x00, 0x11, 0x22, 0x33, 0x44, 0x55]]))).errinfo =
      ⟨4, 5, 0x0080⟩ := by decide
/-- V-WR-8, V-WR-4. -/
theorem test_writeBlock :
    (after (writeBlockWith ramp [0xDE, 0xAD, 0xBE, 0xEF] 0x0E70
      (answered [[0x1E, 0xFF, 0xFF, 0xFF, 0x70, 0x0E, 0x09, 0x09, 0x09]]))).resp = .returned .none := by decide
theorem test_writeBlock_offset :
    (after (writeBlockWith ramp [0xDE, 0xAD, 0xBE, 0xEF] 0x0E70
      (answered [[0x1E, 0x05, 0x02, 0x00, 0x70, 0x0F]]))).errinfo = ⟨0x0E70, 0x0F70, 0x0E70⟩ := by decide
/-- V-RST-1. -/
theorem test_devReset :
    (after (devResetWith ramp (scripted [taken] []))).txlog =
      [0xAB, 0xCD, 0x04, 0x00, 0xDD, 0x04, 0x02, 0x03, 0x71, 0x7F, 0xDC, 0xBA] := by decide

/-! ## The rows of byte strings (section 2.6) -/

/-- The reply RR under KR. -/
theorem test_frameReply :
    (after (frameReplyWith ramp [0x1C, 0x05, 0x08, 0x00, 0x80, 0x00, 0x04, 0x00, 0x11, 0x22, 0x33, 0x44] 0x55 0xAA
      State.reset)).rxq =
      [0xAB, 0xCD, 0x0C, 0x00, 0x1C, 0x04, 0x0A, 0x03, 0x84, 0x05, 0x02, 0x07, 0x19, 0x2B, 0x39, 0x4F, 0x55, 0xAA, 0xDC,
        0xBA] := by decide
/-- The reply AK. -/
theorem test_ackBody : ackBody ramp [0x05, 0x02, 0x00] 0x0E70 [] = [0x1E, 0x05, 0x02, 0x00, 0x70, 0x0E] := by decide
theorem test_bodyReset_is_send : exec .bodyReset State.reset = exec (.send Config.params.resetBody) State.reset := by
  rw [exec_runs rfl rfl rfl, exec_runs rfl rfl (by exact (bodyFits_iff _).mpr params_wf.2)]
  rfl

/-! ## Witnesses: a state and operands that meet the hypotheses of each statement -/

theorem lineGives_of_reads {s : State} {b : Bytes} {f0 f1 : Byte} {rest : List ReadDraw} (hq : s.rxq = [])
    (hr : s.reads = frameReads b f0 f1 ++ rest) (hb : b.length ≤ 255) : LineGives s b f0 f1 := by
  have h0 : readChoice 0 4 s = arriving [0xAB, 0xCD, BitVec.ofNat 8 b.length, 0x00] := by
    simp only [readChoice, hr]; rfl
  have h1 : ∀ n, readChoice 1 n s = arriving b := fun n => by simp only [readChoice, hr]; rfl
  have h2 : readChoice 2 4 s = arriving [f0, f1, 0xDC, 0xBA] := by simp only [readChoice, hr]; rfl
  have l0 : leftAfterHeader s = [] := by simp only [leftAfterHeader, left, hq, h0]; rfl
  have l1 : leftAfterBody b.length s = [] := by simp [leftAfterBody, left, l0, h1, arriving]
  refine ⟨hb, ⟨by rw [h0]; rfl, ?_⟩, ⟨.inl (by rw [h1]; rfl), ?_⟩, ⟨by rw [h2]; rfl, ?_⟩⟩
  · simp only [got, hq, h0]; rfl
  · simp [got, l0, h1, arriving]
  · simp only [got, l1, h2]; rfl

theorem exchange_of_script {s : State} {body r : Bytes} {f0 f1 : Byte} {ws : List WriteDraw} {rest : List ReadDraw}
    (hq : s.rxq = []) (hw : s.writes = taken :: ws) (hr : s.reads = frameReads (onLine r) f0 f1 ++ rest)
    (hb : r.length ≤ 255) : Exchange body r f0 f1 s := by
  have hc : writeChoice (commandFrame body) s = taken := by simp only [writeChoice, hw]; rfl
  refine ⟨by rw [SendAccepted, hc]; rfl, lineGives_of_reads ?_ hr (by rw [onLine_length]; exact hb)⟩
  show s.rxq ++ (writeChoice (commandFrame body) s).arrive = []
  rw [hc, hq]
  rfl

/-- The queue after an exchange of which nothing is left over. -/
theorem afterExchange_rxq {s : State} {body r : Bytes} {f0 f1 : Byte} {ws : List WriteDraw} {rest : List ReadDraw}
    (hq : s.rxq = []) (hw : s.writes = taken :: ws) (hr : s.reads = frameReads (onLine r) f0 f1 ++ rest) :
    (afterExchange body r f0 f1 s).rxq = [] ∧ (afterExchange body r f0 f1 s).writes = ws ∧
      (afterExchange body r f0 f1 s).reads = rest := by
  have hc : writeChoice (commandFrame body) s = taken := by simp only [writeChoice, hw]; rfl
  have h0 : ∀ n, readChoice 0 n (afterSend body s) =
      arriving [0xAB, 0xCD, BitVec.ofNat 8 (onLine r).length, 0x00] := fun n => by
    show (s.reads[0]?).getD _ = _
    rw [hr]; rfl
  have h1 : ∀ n, readChoice 1 n (afterSend body s) = arriving (onLine r) := fun n => by
    show (s.reads[1]?).getD _ = _
    rw [hr]; rfl
  have h2 : ∀ n, readChoice 2 n (afterSend body s) = arriving [f0, f1, 0xDC, 0xBA] := fun n => by
    show (s.reads[2]?).getD _ = _
    rw [hr]; rfl
  have hq' : (afterSend body s).rxq = [] := by
    show s.rxq ++ (writeChoice (commandFrame body) s).arrive = []
    rw [hc, hq]; rfl
  refine ⟨?_, ?_, ?_⟩
  · show leftAfterFooter (onLine r).length (afterSend body s) = []
    simp [leftAfterFooter, leftAfterBody, leftAfterHeader, left, hq', h0, h1, h2, arriving]
  · show s.writes.tail = ws
    rw [hw]; rfl
  · show s.reads.drop 3 = rest
    rw [hr]; rfl

/-- `k` empty replies in a row, from a script of them. -/
theorem empties_of_script (k n : Nat) {s : State} {ws : List WriteDraw} {rest : List ReadDraw} (hq : s.rxq = [])
    (hw : s.writes = List.replicate k taken ++ ws)
    (hr : s.reads = (List.replicate k (frameReads [] 0x00 0x00)).flatten ++ rest) :
    ∃ u, EmptyReplies k n s u ∧ u.rxq = [] ∧ u.writes = ws ∧ u.reads = rest := by
  induction k generalizing n s with
  | zero => exact ⟨s, rfl, hq, by simpa using hw, by simpa using hr⟩
  | succ k ih =>
    have hw' : s.writes = taken :: (List.replicate k taken ++ ws) := hw
    have hr' : s.reads =
        frameReads (onLine []) 0x00 0x00 ++ ((List.replicate k (frameReads [] 0x00 0x00)).flatten ++ rest) := by
      rw [hr, List.replicate_succ, List.flatten_cons, List.append_assoc]; rfl
    obtain ⟨h1, h2, h3⟩ := afterExchange_rxq (body := Config.params.helloBody) hq hw' hr'
    obtain ⟨u, hu, h⟩ := ih (n - 1) (s := { afterExchange Config.params.helloBody [] 0x00 0x00 s with
      tries := BitVec.ofNat 3 (n - 1) }) h1 h2 h3
    exact ⟨u, ⟨0x00, 0x00, exchange_of_script hq hw' hr' (by decide), hu⟩, h⟩

/-- A script of four empty replies and then `reads`, with the fifth hello answered by `last`. -/
def fourEmpty (last : WriteDraw) (reads : List ReadDraw) : State :=
  scripted (List.replicate 4 taken ++ [last]) ((List.replicate 4 (frameReads [] 0x00 0x00)).flatten ++ reads)

theorem witness_fourEmpty (last : WriteDraw) (reads : List ReadDraw) :
    ∃ u, EmptyReplies 4 5 { fourEmpty last reads with tries := 5 } u ∧ u.rxq = [] ∧ u.writes = [last] ∧ u.reads = reads :=
  empties_of_script 4 5 rfl rfl rfl

/-! ### Reset and the step -/

theorem reset_idle : BlockIdle State.reset := ⟨rfl, rfl, rfl, rfl⟩

theorem reset_inv : BlockInv State.reset := by
  refine ⟨reset_idle, ⟨by decide, ?_⟩, by decide, by decide, by decide, by decide, rfl⟩
  intro i h hi
  exact absurd hi (by simp [State.reset])

theorem witness_StepKeepsInv :
    BlockInv State.reset ∧ step State.reset = .next (arrive State.reset) := ⟨reset_inv, rfl⟩
theorem witness_StepRunsDecodedInstruction :
    ({ State.reset with moves := [[0x02, 0x44]] } : State).moves = [0x02, 0x44] :: [] ∧
      decode [0x02, 0x44] = .ok (.obfByte 0x44) := ⟨rfl, by decide⟩
theorem witness_StepWithoutInstruction_none : State.reset.moves = [] := rfl
theorem witness_StepWithoutInstruction_undecodable :
    ({ State.reset with moves := [[0x19]] } : State).moves = [0x19] :: [] ∧
      decode [0x19] = .error (.unknownSelector 0x19) := ⟨rfl, by decide⟩
theorem witness_EveryOperationEndsIdle : BlockIdle State.reset ∧ invokesBlock .handshake = true := ⟨reset_idle, rfl⟩
theorem witness_ErrorEntry :
    invokesBlock .recv = true ∧ ∃ t, exec .recv (scripted [] [failing]) = .next t ∧ t.resp = .raised := ⟨rfl, _, rfl, rfl⟩
theorem witness_RequestWhileBusyIsRefused :
    invokesBlock .recv = true ∧ ({ State.reset with busy := true } : State).busy = true := ⟨rfl, rfl⟩
theorem witness_UnfitOperandIsRefused :
    (State.reset.busy = true → invokesBlock (.send (List.replicate 256 0)) = false) ∧
      (Instr.send (List.replicate 256 0)).wellFormed = false := ⟨by simp [State.reset], by decide⟩
theorem witness_UnfitOperandIsRefused_busy :
    (({ State.reset with busy := true } : State).busy = true →
        invokesBlock (.frameReply (List.replicate 256 0) 0 0) = false) ∧
      (Instr.frameReply (List.replicate 256 0) 0 0).wellFormed = false := ⟨fun _ => rfl, by decide⟩

/-! ### Codec, CRC, byte channel -/

theorem witness_ObfRstClearsIndex : State.reset.busy = false := rfl
theorem witness_ObfByteXorsKey : ({ State.reset with kidx := 15 } : State).busy = false := rfl
theorem witness_ObfMsgIsPositionwise : State.reset.busy = false := rfl
theorem witness_ObfMsgIsInvolution : State.reset.busy = false := rfl
theorem witness_ObfPrefixLaw : 0 < ([0x02] : Bytes).length := by decide
theorem witness_ObfBytesInTurnGiveMessage : State.reset.busy = false := rfl
theorem witness_CrcClrClears : State.reset.busy = false := rfl
theorem witness_CrcByteDividesBitSerially : ({ State.reset with crc := 0x8000 } : State).busy = false := rfl
theorem witness_CrcMsgRunsBytesInOrder : State.reset.busy = false := rfl
theorem witness_CrcBytesInTurnGiveMessage : State.reset.busy = false := rfl
theorem witness_CrcIsLinear : ([0xFF] : Bytes).length = ([0x01] : Bytes).length := rfl
theorem witness_UartSettoStores : State.reset.busy = false ∧ 0 < (⟨1, 2⟩ : Duration).num ∧ 0 < (⟨1, 2⟩ : Duration).den := by
  decide
theorem witness_UartWrAppends_ok :
    (scripted [taken] []).busy = false ∧ (writeChoice [0xAB] (scripted [taken] [])).fail = none := ⟨rfl, rfl⟩
theorem witness_UartWrAppends_empty : State.reset.busy = false ∧ ([] : Bytes) = [] := ⟨rfl, rfl⟩
theorem witness_UartWrFails_none_out :
    (writeChoice [0xAB] (scripted [{ fail := some 0, arrive := [] }] [])).fail = some 0 ∧ ([0xAB] : Bytes) ≠ [] := by decide
theorem witness_UartWrFails_all_out :
    (writeChoice [0xAB] (scripted [{ fail := some 1, arrive := [] }] [])).fail = some 1 ∧ ([0xAB] : Bytes) ≠ [] := by decide
theorem witness_UartRdReturns : (readChoice 0 4 (scripted [] [quiet])).fail = false := rfl
theorem witness_UartRdReturns_zero : State.reset.busy = false ∧ (0 : Nat) = 0 := ⟨rfl, rfl⟩
theorem witness_UartRdReturns_queued :
    (waiting [0x11, 0x22]).busy = false ∧ (waiting [0x11, 0x22]).rxq = [0x11] ++ [0x22] ∧
      (readChoice 0 ([0x11] : Bytes).length (waiting [0x11, 0x22])).fail = false := ⟨rfl, rfl, rfl⟩
theorem witness_UartRdFails :
    (scripted [] [failing]).busy = false ∧ (readChoice 0 2 (scripted [] [failing])).fail = true ∧ (2 : Nat) ≠ 0 := by decide

/-! ### SEND and the rows of byte strings -/

theorem witness_FrameMagicOrder :
    (scripted [taken] []).busy = false ∧ ([] : Bytes).length ≤ 255 ∧ SendAccepted [] (scripted [taken] []) :=
  ⟨rfl, by decide, rfl⟩
theorem witness_CommandFrameLayout : (List.replicate 255 (0 : Byte)).length ≤ 255 ∧ 254 < 255 := by decide
theorem witness_SendWritesFrame :
    (scripted [taken] []).busy = false ∧ (List.replicate 255 (0 : Byte)).length ≤ 255 ∧
      SendAccepted (List.replicate 255 0) (scripted [taken] []) := ⟨rfl, by decide, rfl⟩
theorem witness_SendFailsAfterPrefix_none_out :
    ([] : Bytes).length ≤ 255 ∧
      (writeChoice (commandFrame []) (scripted [{ fail := some 0, arrive := [] }] [])).fail = some 0 := ⟨by decide, rfl⟩
theorem witness_SendFailsAfterPrefix_all_out :
    ([] : Bytes).length ≤ 255 ∧
      (writeChoice (commandFrame []) (scripted [{ fail := some 8, arrive := [] }] [])).fail = some 8 := ⟨by decide, rfl⟩
theorem witness_CommandRowsAreSent_frameCmd :
    (scripted [taken] []).busy = false ∧ ([] : Bytes).length ≤ 255 ∧ SendAccepted [] (scripted [taken] []) :=
  ⟨rfl, by decide, rfl⟩
theorem witness_CommandRowsAreSent_bodyHello :
    (scripted [taken] []).busy = false ∧ SendAccepted Config.params.helloBody (scripted [taken] []) := ⟨rfl, rfl⟩
theorem witness_CommandRowsAreSent_bodyRead :
    (scripted [taken] []).busy = false ∧ SendAccepted (readCommand 0xFFFF 0xFF) (scripted [taken] []) := ⟨rfl, rfl⟩
theorem witness_CommandRowsAreSent_bodyWrite :
    (scripted [taken] []).busy = false ∧ (List.replicate 243 (0 : Byte)).length ≤ 243 ∧
      SendAccepted (writeCommand (List.replicate 243 0) 0) (scripted [taken] []) := ⟨rfl, by decide, rfl⟩
theorem witness_CommandRowsAreSent_bodyReset :
    (scripted [taken] []).busy = false ∧ SendAccepted Config.params.resetBody (scripted [taken] []) := ⟨rfl, rfl⟩
theorem witness_ReplyRowsReachTheQueue :
    (List.replicate 255 (0 : Byte)).length ≤ 255 ∧ (List.replicate 8 (0 : Byte)).length = 8 ∧
      (List.replicate 247 (0 : Byte)).length ≤ 247 ∧ (List.replicate 249 (0 : Byte)).length ≤ 249 := by decide
theorem witness_ReplyRowsReachTheQueue_short :
    ((List.replicate 7 (0 : Byte)).length < 8 ∧ ([] : Bytes) = []) ∧
      ((List.replicate 8 (0 : Byte)).length = 8 ∧ (List.replicate 247 (0 : Byte)).length ≤ 247) := by decide

/-! ### RECV -/

/-- The state in which the line gives a frame with the obfuscated body `b`. -/
def givingFrame (b : Bytes) : State := scripted [] (frameReads b 0x12 0x34)

theorem witness_RecvReturnsBody_empty : (givingFrame []).busy = false ∧ LineGives (givingFrame []) [] 0x12 0x34 :=
  ⟨rfl, lineGives_of_reads rfl (List.append_nil _).symm (by decide)⟩
theorem witness_RecvReturnsBody_largest :
    (givingFrame (List.replicate 255 0)).busy = false ∧
      LineGives (givingFrame (List.replicate 255 0)) (List.replicate 255 0) 0x12 0x34 :=
  ⟨rfl, lineGives_of_reads rfl (List.append_nil _).symm (by decide)⟩
theorem witness_RecvChecksNoCrc :
    (givingFrame [0x81]).busy = false ∧ LineGives (givingFrame [0x81]) [0x81] 0x12 0x34 :=
  ⟨rfl, lineGives_of_reads rfl (List.append_nil _).symm (by decide)⟩
theorem witness_RecvRejectsHeader_short :
    (waiting [0xAB, 0xCD, 0x03]).busy = false ∧ HeaderRead (waiting [0xAB, 0xCD, 0x03]) [0xAB, 0xCD, 0x03] ∧
      ([0xAB, 0xCD, 0x03] : Bytes).length < 4 := ⟨rfl, ⟨rfl, rfl⟩, by decide⟩
theorem witness_RecvRejectsHeader_magic :
    (waiting [0xAA, 0xCD, 0x03, 0x01]).busy = false ∧
      HeaderRead (waiting [0xAA, 0xCD, 0x03, 0x01]) [0xAA, 0xCD, 0x03, 0x01] ∧
      ¬((0xAA : Byte) = 0xAB ∧ (0xCD : Byte) = 0xCD) := ⟨rfl, ⟨rfl, rfl⟩, by decide⟩
theorem witness_RecvRejectsHeader_rsvd :
    (waiting [0xAB, 0xCD, 0x03, 0x01]).busy = false ∧
      HeaderRead (waiting [0xAB, 0xCD, 0x03, 0x01]) [0xAB, 0xCD, 0x03, 0x01] ∧ (0x01 : Byte) ≠ 0x00 :=
  ⟨rfl, ⟨rfl, rfl⟩, by decide⟩
theorem witness_RecvRejectsBodyOrFooter_body :
    (waiting [0xAB, 0xCD, 0x03, 0x00, 0x01, 0x03]).busy = false ∧
      HeaderRead (waiting [0xAB, 0xCD, 0x03, 0x00, 0x01, 0x03]) [0xAB, 0xCD, 0x03, 0x00] ∧
      BodyRead (waiting [0xAB, 0xCD, 0x03, 0x00, 0x01, 0x03]) (0x03 : Byte).toNat [0x01, 0x03] ∧
      ([0x01, 0x03] : Bytes).length < (0x03 : Byte).toNat := ⟨rfl, ⟨rfl, rfl⟩, ⟨.inl rfl, rfl⟩, by decide⟩
theorem witness_RecvRejectsBodyOrFooter_footer :
    (waiting [0xAB, 0xCD, 0x01, 0x00, 0x01, 0x32]).busy = false ∧
      HeaderRead (waiting [0xAB, 0xCD, 0x01, 0x00, 0x01, 0x32]) [0xAB, 0xCD, 0x01, 0x00] ∧
      BodyRead (waiting [0xAB, 0xCD, 0x01, 0x00, 0x01, 0x32]) (0x01 : Byte).toNat [0x01] ∧
      ([0x01] : Bytes).length = (0x01 : Byte).toNat ∧
      FooterRead (waiting [0xAB, 0xCD, 0x01, 0x00, 0x01, 0x32]) (0x01 : Byte).toNat [0x32] ∧
      ([0x32] : Bytes).length < 4 := ⟨rfl, ⟨rfl, rfl⟩, ⟨.inl rfl, rfl⟩, rfl, ⟨rfl, rfl⟩, by decide⟩
theorem witness_RecvRejectsBodyOrFooter_magic :
    (waiting [0xAB, 0xCD, 0x00, 0x00, 0x12, 0x34, 0xDC, 0xBB]).busy = false ∧
      HeaderRead (waiting [0xAB, 0xCD, 0x00, 0x00, 0x12, 0x34, 0xDC, 0xBB]) [0xAB, 0xCD, 0x00, 0x00] ∧
      BodyRead (waiting [0xAB, 0xCD, 0x00, 0x00, 0x12, 0x34, 0xDC, 0xBB]) (0x00 : Byte).toNat [] ∧
      ([] : Bytes).length = (0x00 : Byte).toNat ∧
      FooterRead (waiting [0xAB, 0xCD, 0x00, 0x00, 0x12, 0x34, 0xDC, 0xBB]) (0x00 : Byte).toNat
        [0x12, 0x34, 0xDC, 0xBB] ∧
      ¬((0xDC : Byte) = 0xDC ∧ (0xBB : Byte) = 0xBA) := ⟨rfl, ⟨rfl, rfl⟩, ⟨.inl rfl, rfl⟩, rfl, ⟨rfl, rfl⟩, by decide⟩
theorem witness_SilenceAndFailureDiffer_silent_header :
    (waiting []).busy = false ∧ HeaderRead (waiting []) [] := ⟨rfl, ⟨rfl, rfl⟩⟩
theorem witness_SilenceAndFailureDiffer_silent_body :
    (waiting [0xAB, 0xCD, 0x01, 0x00]).busy = false ∧
      HeaderRead (waiting [0xAB, 0xCD, 0x01, 0x00]) [0xAB, 0xCD, 0x01, 0x00] ∧ (0x01 : Byte) ≠ 0 ∧
      BodyRead (waiting [0xAB, 0xCD, 0x01, 0x00]) (0x01 : Byte).toNat [] :=
  ⟨rfl, ⟨rfl, rfl⟩, by decide, ⟨.inl rfl, rfl⟩⟩
theorem witness_SilenceAndFailureDiffer_silent_footer :
    (waiting [0xAB, 0xCD, 0x00, 0x00]).busy = false ∧
      HeaderRead (waiting [0xAB, 0xCD, 0x00, 0x00]) [0xAB, 0xCD, 0x00, 0x00] ∧
      BodyRead (waiting [0xAB, 0xCD, 0x00, 0x00]) (0x00 : Byte).toNat [] ∧ ([] : Bytes).length = (0x00 : Byte).toNat ∧
      FooterRead (waiting [0xAB, 0xCD, 0x00, 0x00]) (0x00 : Byte).toNat [] :=
  ⟨rfl, ⟨rfl, rfl⟩, ⟨.inl rfl, rfl⟩, rfl, ⟨rfl, rfl⟩⟩
theorem witness_SilenceAndFailureDiffer_fail_header :
    (scripted [] [failing]).busy = false ∧ (readChoice 0 4 (scripted [] [failing])).fail = true := ⟨rfl, rfl⟩
theorem witness_SilenceAndFailureDiffer_fail_body :
    (scripted [] [arriving [0xAB, 0xCD, 0x01, 0x00], failing]).busy = false ∧
      HeaderRead (scripted [] [arriving [0xAB, 0xCD, 0x01, 0x00], failing]) [0xAB, 0xCD, 0x01, 0x00] ∧
      (0x01 : Byte) ≠ 0 ∧
      (readChoice 1 (0x01 : Byte).toNat (scripted [] [arriving [0xAB, 0xCD, 0x01, 0x00], failing])).fail = true :=
  ⟨rfl, ⟨rfl, rfl⟩, by decide, rfl⟩
theorem witness_SilenceAndFailureDiffer_fail_footer :
    (scripted [] [arriving [0xAB, 0xCD, 0x00, 0x00], failing, failing]).busy = false ∧
      HeaderRead (scripted [] [arriving [0xAB, 0xCD, 0x00, 0x00], failing, failing]) [0xAB, 0xCD, 0x00, 0x00] ∧
      BodyRead (scripted [] [arriving [0xAB, 0xCD, 0x00, 0x00], failing, failing]) (0x00 : Byte).toNat [] ∧
      ([] : Bytes).length = (0x00 : Byte).toNat ∧
      (readChoice 2 4 (scripted [] [arriving [0xAB, 0xCD, 0x00, 0x00], failing, failing])).fail = true :=
  ⟨rfl, ⟨rfl, rfl⟩, ⟨.inr rfl, rfl⟩, rfl, rfl⟩
/-- The other hypotheses of RecvConsumptionTable are met by the theorems `witness_recv_…` above, one for each row. -/
theorem witness_RecvConsumptionTable :
    (waiting [0xAB]).busy = false ∧ ∃ t, exec .recv (waiting [0xAB]) = .next t ∧ t.errsub = .shortHeader :=
  ⟨rfl, _, rfl, rfl⟩
theorem witness_RecvOfSentFrameReturnsBody :
    (waiting (encodeFrame Config.key [0x01] ++ [0x99])).busy = false ∧ ([0x01] : Bytes).length ≤ 255 ∧
      (waiting (encodeFrame Config.key [0x01] ++ [0x99])).rxq = encodeFrame Config.key [0x01] ++ [0x99] ∧
      (readChoice 0 4 (waiting (encodeFrame Config.key [0x01] ++ [0x99]))).fail = false ∧
      (readChoice 1 1 (waiting (encodeFrame Config.key [0x01] ++ [0x99]))).fail = false ∧
      (readChoice 2 4 (waiting (encodeFrame Config.key [0x01] ++ [0x99]))).fail = false :=
  ⟨rfl, by decide, rfl, rfl, rfl, rfl⟩
theorem witness_DecodeFrameOfEncodeFrame : (List.replicate 255 (0 : Byte)).length ≤ 255 := by decide

/-! ### HANDSHAKE -/

/-- A hello reply body with the firmware string "A". -/
def helloReply : Bytes := [0x15, 0x05, 0x01, 0x00, 0x41]

theorem witness_HandshakeReturnsFirmwareString_first :
    (scripted [taken] (frameReads (onLine helloReply) 0x00 0x00)).busy = false ∧
      EmptyReplies 0 5 { scripted [taken] (frameReads (onLine helloReply) 0x00 0x00) with tries := 5 }
        { scripted [taken] (frameReads (onLine helloReply) 0x00 0x00) with tries := 5 } ∧
      Exchange Config.params.helloBody helloReply 0x00 0x00
        { scripted [taken] (frameReads (onLine helloReply) 0x00 0x00) with tries := 5 } ∧
      helloReply ≠ [] ∧ fwExtract helloReply ≠ [] :=
  ⟨rfl, rfl, exchange_of_script rfl rfl (List.append_nil _).symm (by decide), by decide, by decide⟩
theorem witness_HandshakeReturnsFirmwareString_fifth :
    ∃ s u : State, s.busy = false ∧ EmptyReplies 4 5 { s with tries := 5 } u ∧
      Exchange Config.params.helloBody helloReply 0x00 0x00 u ∧ helloReply ≠ [] ∧ fwExtract helloReply ≠ [] := by
  obtain ⟨u, hu, h1, h2, h3⟩ := witness_fourEmpty taken (frameReads (onLine helloReply) 0x00 0x00 ++ [])
  exact ⟨_, u, rfl, hu, exchange_of_script h1 h2 h3 (by decide), by decide, by decide⟩
theorem witness_HandshakeRejectsEmptyString_first :
    (scripted [taken] (frameReads (onLine [0x15]) 0x00 0x00)).busy = false ∧
      EmptyReplies 0 5 { scripted [taken] (frameReads (onLine [0x15]) 0x00 0x00) with tries := 5 }
        { scripted [taken] (frameReads (onLine [0x15]) 0x00 0x00) with tries := 5 } ∧
      Exchange Config.params.helloBody [0x15] 0x00 0x00
        { scripted [taken] (frameReads (onLine [0x15]) 0x00 0x00) with tries := 5 } ∧
      ([0x15] : Bytes) ≠ [] ∧ fwExtract [0x15] = [] :=
  ⟨rfl, rfl, exchange_of_script rfl rfl (List.append_nil _).symm (by decide), by decide, by decide⟩
theorem witness_HandshakeRejectsEmptyString_fifth :
    ∃ s u : State, s.busy = false ∧ EmptyReplies 4 5 { s with tries := 5 } u ∧
      Exchange Config.params.helloBody [0x15] 0x00 0x00 u ∧ ([0x15] : Bytes) ≠ [] ∧ fwExtract [0x15] = [] := by
  obtain ⟨u, hu, h1, h2, h3⟩ := witness_fourEmpty taken (frameReads (onLine [0x15]) 0x00 0x00 ++ [])
  exact ⟨_, u, rfl, hu, exchange_of_script h1 h2 h3 (by decide), by decide, by decide⟩
theorem witness_HandshakeGivesUpAfterFive :
    ∃ s u : State, s.busy = false ∧ EmptyReplies 5 5 { s with tries := 5 } u := by
  obtain ⟨u, hu, -⟩ := empties_of_script 5 5 (ws := []) (rest := [])
    (s := { scripted (List.replicate 5 taken) ((List.replicate 5 (frameReads [] 0x00 0x00)).flatten) with tries := 5 })
    rfl rfl rfl
  exact ⟨_, u, rfl, hu⟩
theorem send_raises {body : Bytes} {s : State} {k : Nat} (hl : body.length ≤ 255) (hb : s.busy = false)
    (hw : (writeChoice (commandFrame body) s).fail = some k) :
    ∃ t, exec (.send body) s = .next t ∧ t.resp = .raised := by
  rw [exec_runs rfl hb (by exact (bodyFits_iff _).mpr hl), runOf, sendRun, sendBody_fail hw]
  exact ⟨_, rfl, rfl⟩

theorem witness_HandshakeDoesNotRetryErrors_send :
    ∃ s u t : State, s.busy = false ∧ EmptyReplies 4 5 { s with tries := 5 } u ∧
      exec (.send Config.params.helloBody) u = .next t ∧ t.resp = .raised := by
  obtain ⟨u, hu, h1, h2, h3⟩ := witness_fourEmpty { fail := some 3, arrive := [] } []
  have hb : u.busy = false := by
    obtain ⟨f0, f1, -, h⟩ := hu
    obtain ⟨f0, f1, -, h⟩ := h
    obtain ⟨f0, f1, -, h⟩ := h
    obtain ⟨f0, f1, -, h⟩ := h
    rw [h]
    rfl
  have hw : (writeChoice (commandFrame Config.params.helloBody) u).fail = some 3 := by
    simp only [writeChoice, h2]; rfl
  obtain ⟨t, h1, h2⟩ := send_raises params_wf.1 hb hw
  exact ⟨_, u, t, rfl, hu, h1, h2⟩
theorem witness_HandshakeDoesNotRetryErrors_recv :
    ∃ t, EmptyReplies 0 5 { scripted [taken] [failing] with tries := 5 } { scripted [taken] [failing] with tries := 5 } ∧
      SendAccepted Config.params.helloBody { scripted [taken] [failing] with tries := 5 } ∧
      exec .recv (afterSend Config.params.helloBody { scripted [taken] [failing] with tries := 5 }) = .next t ∧
      t.resp = .raised := ⟨_, rfl, rfl, rfl, rfl⟩
theorem witness_FirmwareStringOnlyFromHandshake : ∃ t, exec .handshake (answered []) = .next t := ⟨_, rfl⟩

/-! ### READ_BLOCK, WRITE_BLOCK, DEV_RESET -/

/-- The state in which the next command is sent whole and answered with the body `r`. -/
def giving (r : Bytes) : State := scripted [taken] (frameReads (onLine r) 0x55 0xAA)

theorem exchange_giving (body r : Bytes) (h : r.length ≤ 255) : Exchange body r 0x55 0xAA (giving r) :=
  exchange_of_script rfl rfl (List.append_nil _).symm h

theorem witness_FwExtractTakesPrintableRun :
    ([0x15] : Bytes).length ≤ 4 ∧ (giving [0x15]).busy = false ∧
      Exchange Config.params.helloBody [0x15] 0x55 0xAA (giving [0x15]) ∧ ([0x15] : Bytes) ≠ [] ∧ fwExtract [0x15] = [] :=
  ⟨by decide, rfl, exchange_giving _ _ (by decide), by decide, by decide⟩
theorem witness_ReadBlockReturnsData_none :
    (giving []).busy = false ∧ Exchange (readCommand 0x0080 0x00) [] 0x55 0xAA (giving []) ∧
      (([] : Bytes).drop 8).length = (0x00 : Byte).toNat := ⟨rfl, exchange_giving _ _ (by decide), by decide⟩
theorem witness_ReadBlockReturnsData_largest :
    (giving (List.replicate 255 0)).busy = false ∧
      Exchange (readCommand 0xFFFF 0xF7) (List.replicate 255 0) 0x55 0xAA (giving (List.replicate 255 0)) ∧
      ((List.replicate 255 (0 : Byte)).drop 8).length = (0xF7 : Byte).toNat :=
  ⟨rfl, exchange_giving _ _ (by decide), by decide⟩
theorem witness_ReadBlockRejectsLength :
    (giving []).busy = false ∧ Exchange (readCommand 0x0080 0x04) [] 0x55 0xAA (giving []) ∧
      (([] : Bytes).drop 8).length ≠ (0x04 : Byte).toNat := ⟨rfl, exchange_giving _ _ (by decide), by decide⟩
theorem witness_ReadBlockOver247NeverReturns :
    State.reset.busy = false ∧ 247 < (0xF8 : Byte).toNat ∧ ∃ t, exec (.readBlock 0x0080 0xF8) State.reset = .next t :=
  ⟨rfl, by decide, _, rfl⟩
theorem witness_WriteBlockAccepted :
    (giving [Config.ackWrite, 5, 2, 0, lo8 0x0E70, hi8 0x0E70]).busy = false ∧
      (List.replicate 243 (0 : Byte)).length ≤ 243 ∧
      Exchange (writeCommand (List.replicate 243 0) 0x0E70)
        ([Config.ackWrite, 5, 2, 0, lo8 0x0E70, hi8 0x0E70] ++ []) 0x55 0xAA
        (giving [Config.ackWrite, 5, 2, 0, lo8 0x0E70, hi8 0x0E70]) :=
  ⟨rfl, by decide, exchange_giving _ _ (by simp)⟩
theorem witness_WriteBlockRejectsAck_short :
    (giving [0, 0, 0, 0, 0]).busy = false ∧ ([] : Bytes).length ≤ 243 ∧
      Exchange (writeCommand [] 0x0E70) [0, 0, 0, 0, 0] 0x55 0xAA (giving [0, 0, 0, 0, 0]) ∧
      ([0, 0, 0, 0, 0] : Bytes).length < 6 := ⟨rfl, by decide, exchange_giving _ _ (by decide), by decide⟩
theorem witness_WriteBlockRejectsAck_opcode :
    (giving [Config.ackWrite + 1, 0, 0, 0, 0, 0]).busy = false ∧ ([] : Bytes).length ≤ 243 ∧
      Exchange (writeCommand [] 0x0E70) ([Config.ackWrite + 1, 0, 0, 0, 0, 0] ++ []) 0x55 0xAA
        (giving [Config.ackWrite + 1, 0, 0, 0, 0, 0]) ∧
      Config.ackWrite + 1 ≠ Config.ackWrite :=
  ⟨rfl, by decide, exchange_giving _ _ (by simp), by simp⟩
theorem witness_WriteBlockRejectsAck_offset :
    (giving [Config.ackWrite, 0, 0, 0, 0x71, 0x0E]).busy = false ∧ ([] : Bytes).length ≤ 243 ∧
      Exchange (writeCommand [] 0x0E70) ([Config.ackWrite, 0, 0, 0, 0x71, 0x0E] ++ []) 0x55 0xAA
        (giving [Config.ackWrite, 0, 0, 0, 0x71, 0x0E]) ∧
      ¬((0x71 : Byte) = lo8 0x0E70 ∧ (0x0E : Byte) = hi8 0x0E70) :=
  ⟨rfl, by decide, exchange_giving _ _ (by simp), by decide⟩
theorem witness_CompositesPassErrorsWithOffset_readSend :
    ∃ t, (scripted [{ fail := some 3, arrive := [] }] []).busy = false ∧
      exec (.send (readCommand 0x0080 0x04)) (scripted [{ fail := some 3, arrive := [] }] []) = .next t ∧
      t.resp = .raised := by
  obtain ⟨t, h⟩ := send_raises (body := readCommand 0x0080 0x04) (s := scripted [{ fail := some 3, arrive := [] }] [])
    (k := 3) (by rw [← readBody_eq, readBody_length]; omega) rfl rfl
  exact ⟨t, rfl, h⟩
theorem witness_CompositesPassErrorsWithOffset_readRecv :
    ∃ t, SendAccepted (readCommand 0x0080 0x04) (scripted [taken] [failing]) ∧
      exec .recv (afterSend (readCommand 0x0080 0x04) (scripted [taken] [failing])) = .next t ∧ t.resp = .raised :=
  ⟨_, rfl, rfl, rfl⟩
theorem witness_CompositesPassErrorsWithOffset_writeSend :
    ∃ t, (scripted [{ fail := some 3, arrive := [] }] []).busy = false ∧ ([] : Bytes).length ≤ 243 ∧
      exec (.send (writeCommand [] 0x0E70)) (scripted [{ fail := some 3, arrive := [] }] []) = .next t ∧
      t.resp = .raised := by
  obtain ⟨t, h⟩ := send_raises (body := writeCommand [] 0x0E70) (s := scripted [{ fail := some 3, arrive := [] }] [])
    (k := 3) (by rw [← writeBody_eq, writeBody_length]; decide) rfl rfl
  exact ⟨t, rfl, by decide, h⟩
theorem witness_CompositesPassErrorsWithOffset_writeRecv :
    ∃ t, ([] : Bytes).length ≤ 243 ∧ SendAccepted (writeCommand [] 0x0E70) (scripted [taken] [failing]) ∧
      exec .recv (afterSend (writeCommand [] 0x0E70) (scripted [taken] [failing])) = .next t ∧ t.resp = .raised :=
  ⟨_, by decide, rfl, rfl, rfl⟩
theorem witness_DevResetSendsAndReadsNothing :
    (scripted [taken] []).busy = false ∧ SendAccepted Config.params.resetBody (scripted [taken] []) ∧
      ∃ t, exec .devReset (scripted [taken] []) = .next t := ⟨rfl, rfl, _, rfl⟩
theorem witness_DevResetSendsAndReadsNothing_raised :
    ∃ t, exec .devReset (scripted [{ fail := some 3, arrive := [] }] []) = .next t ∧ t.resp = .raised := by
  rw [exec_runs rfl rfl rfl, runOf, sendRun, sendBody_fail (k := 3) rfl]
  exact ⟨_, rfl, rfl⟩

/-! ### Rules of the whole machine -/

theorem witness_OperationsRaiseTheirOwnClasses :
    invokesBlock (.uartRd 2) = true ∧ ∃ t, exec (.uartRd 2) (scripted [] [failing]) = .next t ∧ t.resp = .raised :=
  ⟨rfl, _, rfl, rfl⟩
theorem witness_StreamsKeepTheirOrder_step : ∃ t, step State.reset = .next t := ⟨_, rfl⟩
theorem witness_StreamsKeepTheirOrder_send : ∃ t, exec (.send []) State.reset = .next t ∧ receives (.send []) = false :=
  ⟨_, rfl, rfl⟩
theorem witness_StreamsKeepTheirOrder_uartRd : ∃ t, exec (.uartRd 0) State.reset = .next t := ⟨_, rfl⟩
theorem witness_StreamsKeepTheirOrder_recv : ∃ t, exec .recv State.reset = .next t := ⟨_, rfl⟩
theorem witness_StreamsKeepTheirOrder_handshake : ∃ t, exec .handshake State.reset = .next t := ⟨_, rfl⟩
theorem witness_RegistersKeepTheirWriters :
    ∃ t, exec .crcClr State.reset = .next t ∧ RegName.kidx ∉ mayWrite .crcClr := ⟨_, rfl, by decide⟩
theorem witness_HostReadsReportRegisters :
    ({ State.reset with fwlen := 18 } : State).busy = false ∧ 17 < ({ State.reset with fwlen := 18 } : State).fwlen.toNat ∧
      ({ State.reset with fwlen := 18 } : State).fwlen.toNat ≤ 18 := by decide
theorem witness_HostReadsReportRegisters_busy : ({ State.reset with busy := true } : State).busy = true := rfl
/-- R30: `FWSTR` after reset has no value to read. -/
theorem test_hostRead_noValue : hostRead (.fwstr 0) State.reset = .refused .noValue := by decide

end Sys2Proof.Tests
end

/-! ## The wire frame (spec/20_memory.md) -/

namespace Sys2Proof.Proofs

open Sys2Proof.Machine Sys2Proof.Safety

/-- R121: an admitted SEND that the channel accepts runs to its end and leaves what `afterSend` says. -/
theorem exec_send_accepted {body : Bytes} {s : State} (hb : s.busy = false) (hl : body.length ≤ 255)
    (ha : SendAccepted body s) : exec (.send body) s = .next (returnOp .none (afterSend body s)) := by
  have hrun : sendRun body s = .done .none (afterSend body s) := by rw [sendRun, sendBody_ok ha]; rfl
  rw [exec_runs rfl hb (by exact (bodyFits_iff body).mpr hl), runOf, hrun]
  rfl

/-- R43: the four header bytes in the order in which they go out. -/
theorem header_prefix_commandFrame (body : Bytes) :
    [0xAB, 0xCD, BitVec.ofNat 8 body.length, 0x00] <+: commandFrame body := by
  rw [commandFrame, List.append_assoc]
  exact List.prefix_append _ _

/-- R43: the two bytes of the footer magic in the order in which they go out. -/
theorem footer_suffix_commandFrame (body : Bytes) : [0xDC, 0xBA] <:+ commandFrame body :=
  List.suffix_append _ _

/-- Settles O30: an accepted SEND appends `commandFrame body`, whose length byte holds the length because the body has at
most 255 bytes. -/
theorem frameMagicOrder : Obligations.FrameMagicOrder := by
  intro s body hb hl ha
  have hlen : (BitVec.ofNat 8 body.length).toNat = body.length := by
    rw [BitVec.toNat_ofNat]
    exact Nat.mod_eq_of_lt (by omega)
  exact ⟨_, commandFrame body, exec_send_accepted hb hl ha, rfl,
    ⟨_, hlen, header_prefix_commandFrame body⟩, footer_suffix_commandFrame body⟩

end Sys2Proof.Proofs

/-! ## The obfuscation codec (spec/40_obfuscation.md) -/

namespace Sys2Proof.Proofs

open Sys2Proof.Machine Sys2Proof.Safety

/-- R90, R93: an admitted OBF.MSG returns `OBF(m)` under the device's key and leaves `KIDX` at the length as a 4-bit
number. -/
theorem exec_obfMsg {s : State} (m : Bytes) (hb : s.busy = false) :
    exec (.obfMsg m) s =
      .next (succeeded (.bytes (obf Config.key m)) { s with kidx := BitVec.ofNat 4 m.length }) := by
  have hrun : runOf (.obfMsg m) s = .done (.bytes (obf Config.key m)) { s with kidx := BitVec.ofNat 4 m.length } := by
    rw [runOf, obfMessage_eq, result_done]
    rfl
  rw [exec_runs rfl hb rfl, hrun, endOp_done, returnOp_eq]

/-- Settles O15: `OBF(m)` is the positionwise XOR by definition, and the 4 bits of `KIDX` keep the length modulo 16. -/
theorem obfMsgIsPositionwise : Obligations.ObfMsgIsPositionwise := by
  intro s m hb
  have hkidx : (BitVec.ofNat 4 m.length).toNat = m.length % 16 := BitVec.toNat_ofNat m.length 4
  exact ⟨rfl, BitVec.ofNat 4 m.length, hkidx, exec_obfMsg m hb⟩

end Sys2Proof.Proofs

/-! ## RECV (spec/44_frame_rx.md) -/

namespace Sys2Proof.Proofs

open Sys2Proof.Machine Sys2Proof.Safety

/-- R131: an admitted RECV to which the line gives a good frame returns its de-obfuscated body and leaves what `afterRecv`
says. -/
theorem exec_recv_lineGives {s : State} {b : Bytes} {f0 f1 : Byte} (hb : s.busy = false) (hline : LineGives s b f0 f1) :
    exec .recv s = .next (returnOp (.bytes (onLine b)) (afterRecv b f0 f1 s)) := by
  have hrun : runOf .recv s = .done (.bytes (onLine b)) (afterRecv b f0 f1 s) := by
    rw [runOf, recvBody_ok hline, result_done]
  rw [exec_runs rfl hb rfl, hrun, endOp_done]

/-- R90: the byte of a de-obfuscated body at a position inside it. -/
theorem onLine_getElem?_of_lt (b : Bytes) {i : Nat} (h : i < b.length) :
    (onLine b)[i]? = some (b[i] ^^^ Config.key[i % 16]) := by
  rw [onLine_eq, obf_getElem?, List.getElem?_eq_getElem h]
  rfl

/-- Settles O37: on any body and any footer bytes RECV ends in `afterRecv`, which writes no `CRC` and whose `RXLEN` is the
number of bytes returned, since the body has at most 255. -/
theorem recvChecksNoCrc : Obligations.RecvChecksNoCrc := by
  intro s b f0 f1 hb hline
  have hlen : (onLine b).length = (BitVec.ofNat 8 b.length).toNat := by
    rw [onLine_length, ofNat_length_toNat hline.size]
  exact ⟨_, onLine b, exec_recv_lineGives hb hline, rfl, rfl, rfl, hlen, fun _ => onLine_getElem?_of_lt b⟩

end Sys2Proof.Proofs

/-! ## The block commands (spec/45_commands.md) -/

namespace Sys2Proof.Proofs

open Sys2Proof.Machine Sys2Proof.Safety

/-! ### FWEXTRACT and the end of HANDSHAKE -/

/-- R142: a byte that FWEXTRACT does not take is below 0x20 or above 0x7E. -/
theorem printable_eq_false_iff (b : Byte) : printable b = false ↔ b.toNat < 0x20 ∨ 0x7E < b.toNat := by
  have h := printable_iff b
  rw [← Bool.not_eq_true, h]
  omega

/-- R142: where FWEXTRACT stops before its 18 bytes, at a position counted in the whole reply, it stops at a byte it
does not take. -/
theorem fwExtract_stops (r : Bytes) :
    (fwExtract r).length = 18 ∨ ∀ b, r[4 + (fwExtract r).length]? = some b → printable b = false := by
  refine (fwTake_stops 18 (r.drop 4)).imp_right fun h b hb => h b ?_
  rw [List.getElem?_drop]
  exact hb

/-- R142: a reply that ends before position 4 has nothing to extract. -/
theorem fwExtract_of_length_le (r : Bytes) (h : r.length ≤ 4) : fwExtract r = [] := by
  have hdrop : r.drop Config.fwOffset = [] := List.drop_eq_nil_of_le h
  rw [fwExtract, hdrop]
  rfl

/-- `TRIES` does not matter to an exchange. -/
theorem exchange_tries {body r : Bytes} {f0 f1 : Byte} {s : State} (h : Exchange body r f0 f1 s) (n : BitVec 3) :
    Exchange body r f0 f1 { s with tries := n } := by
  obtain ⟨hsent, hline⟩ := h
  exact ⟨hsent, hline.size, hline.header, hline.body, hline.footer⟩

/-- R141: a reply that is not empty ends the retry loop. -/
theorem helloLoop_reply {r : Bytes} {f0 f1 : Byte} {s : State} (h : Exchange Config.params.helloBody r f0 f1 s)
    (hr : r ≠ []) (n : Nat) :
    helloLoop Config.params (n + 1) s = .done r (afterExchange Config.params.helloBody r f0 f1 s) := by
  obtain ⟨hsend, hrecv⟩ := exchange_ok h
  obtain ⟨b, rest, rfl⟩ := List.exists_cons_of_ne_nil hr
  rw [helloLoop, hsend, andThen_done, hrecv, andThen_done]

/-- R140: a reply without a firmware string is an error, and nothing is committed. -/
theorem commitFw_of_empty {r : Bytes} (h : fwExtract r = []) (s : State) :
    commitFw r s = .raised (report .emptyFwstring 1 0) s := by
  rw [commitFw, h]

/-- R140: HANDSHAKE whose first reply is not empty and holds no firmware string. -/
theorem handshakeBody_of_empty_string {r : Bytes} {f0 f1 : Byte} {s : State}
    (h : Exchange Config.params.helloBody r f0 f1 s) (hr : r ≠ []) (hfw : fwExtract r = []) :
    handshakeBody Config.params s = .raised (report .emptyFwstring 1 0)
      (afterExchange Config.params.helloBody r f0 f1 { s with tries := 5 }) := by
  calc handshakeBody Config.params s
      = andThen (helloLoop Config.params 5 { s with tries := 5 }) commitFw := rfl
    _ = commitFw r (afterExchange Config.params.helloBody r f0 f1 { s with tries := 5 }) := by
        rw [helloLoop_reply (exchange_tries h 5) hr 4, andThen_done]
    _ = _ := commitFw_of_empty hfw _

/-- R140: the request HANDSHAKE itself, on such a reply, ends in InitializationError. -/
theorem exec_handshake_of_empty_string {r : Bytes} {f0 f1 : Byte} {s : State} (hb : s.busy = false)
    (h : Exchange Config.params.helloBody r f0 f1 s) (hr : r ≠ []) (hfw : fwExtract r = []) :
    exec .handshake s = .next (failed .initializationError .emptyFwstring 1 0 0
      (afterExchange Config.params.helloBody r f0 f1 { s with tries := 5 })) := by
  rw [exec_runs rfl hb rfl, runOf, handshakeBody_of_empty_string h hr hfw, result_raised, endOp_raised, raiseOp_eq]
  rfl

/-- Settles O44: the extracted string is `fwTake 18` of the reply from position 4 on, whose length, bytes and stopping
point are known; where it is empty, `commitFw` raises EMPTY_FWSTRING on the first reply. -/
theorem fwExtractTakesPrintableRun : Obligations.FwExtractTakesPrintableRun := by
  refine ⟨fun r => ⟨fwTake_length 18 _, fwTake_prefix 18 _, ?_, ?_⟩, fwExtract_of_length_le, ?_⟩
  · exact fun b hb => (printable_iff b).mp (fwTake_printable 18 _ b hb)
  · exact (fwExtract_stops r).imp_right fun h b hb => (printable_eq_false_iff b).mp (h b hb)
  · exact fun s r f0 f1 hb hx hr hfw => ⟨_, exec_handshake_of_empty_string hb hx hr hfw, rfl, rfl⟩

/-! ### DEV_RESET -/

/-- R201: an operation requested while another runs is refused, whichever it is. -/
theorem exec_busy {i : Instr} {s : State} (h : invokesBlock i = true) (hb : s.busy = true) :
    exec i s = .next (refuse .busy s) := by
  rw [exec_invokes h, invoke, if_pos hb]

/-- R147: DEV_RESET is SEND of RESET_BODY, which always fits. -/
theorem exec_devReset_eq_send (s : State) : exec .devReset s = exec (.send Config.params.resetBody) s := by
  cases hb : s.busy with
  | true => rw [exec_busy rfl hb, exec_busy rfl hb]
  | false =>
    rw [exec_runs rfl hb rfl, exec_runs rfl hb (by exact (bodyFits_iff _).mpr params_wf.2)]
    rfl

/-- SEND makes no read and takes nothing out of `RXQ`, whether it is refused or runs, and however it ends. -/
theorem exec_send_reads_nothing {body : Bytes} {s t : State} (h : exec (.send body) s = .next t) :
    t.reads = s.reads ∧ s.rxq <+: t.rxq := by
  rcases exec_cases (.send body) s with ⟨why, h'⟩ | ⟨-, -, -, h'⟩ | ⟨hinv, -⟩
  · cases h'.symm.trans h
    exact ⟨refuse_reads why s, List.prefix_rfl⟩
  · cases h'.symm.trans h
    rw [endOp_reads, endOp_rxq, runOf, result_last]
    obtain ⟨hkeeps, -⟩ := sendBody_last Config.params body s
    exact ⟨hkeeps.reads, hkeeps.rxq⟩
  · contradiction

/-- R164: the one error class of SEND is TransportError. -/
theorem exec_send_raises_transportError {body : Bytes} {s t : State} (h : exec (.send body) s = .next t)
    (hraised : t.resp = .raised) : t.err = .transportError := by
  rcases exec_cases (.send body) s with ⟨why, h'⟩ | ⟨-, -, -, h'⟩ | ⟨hinv, -⟩
  · cases h'.symm.trans h
    contradiction
  · rw [runOf, sendRun] at h'
    cases hs : sendBody Config.params body s with
    | done u v =>
      rw [hs] at h'
      cases h'.symm.trans h
      contradiction
    | raised e v =>
      rw [hs] at h'
      cases h'.symm.trans h
      obtain ⟨-, hcls, -⟩ := sendBody_raises hs
      exact hcls
  · contradiction

/-- Settles O56: DEV_RESET is SEND of RESET_BODY, so what SEND leaves, reads and raises is what DEV_RESET does. -/
theorem devResetSendsAndReadsNothing : Obligations.DevResetSendsAndReadsNothing := by
  refine ⟨rfl, exec_devReset_eq_send, fun s hb ha => ?_, fun s t h => ?_⟩
  · rw [exec_devReset_eq_send, exec_send_accepted hb params_wf.2 ha, returnOp_eq]
  · rw [exec_devReset_eq_send] at h
    obtain ⟨hreads, hrxq⟩ := exec_send_reads_nothing h
    exact ⟨hreads, hrxq, exec_send_raises_transportError h⟩

end Sys2Proof.Proofs

/-! ## The layout of a request (spec/30_encoding.md) -/

namespace Sys2Proof.Proofs

open Sys2Proof.Machine Sys2Proof.Safety

/-- The parser reads the operand `v` from the bytes `enc`, whatever follows them. -/
def Reads {α : Type} (parse : Bytes → Parsed α) (enc : Bytes) (v : α) : Prop :=
  ∀ rest, parse (enc ++ rest) = some (v, rest)

theorem reads_byte (b : Byte) : Reads decodeByte [b] b := decodeByte_cons b

theorem reads_word (w : Word) : Reads decodeWord (le16 w) w := decodeWord_le16 w

theorem reads_bytes (m : Bytes) : Reads decodeBytes (encodeBytes m) m := decodeBytes_encodeBytes m

theorem Reads.both {α β : Type} {a : Bytes → Parsed α} {b : Bytes → Parsed β} {x y : Bytes} {v : α} {w : β}
    (ha : Reads a x v) (hb : Reads b y w) : Reads (parseBoth a b) (x ++ y) (v, w) := by
  intro rest
  rw [parseBoth, List.append_assoc, ha]
  simp only [hb rest]

/-- A parser that reads its operand from all there is leaves nothing over. -/
theorem Reads.takesAll {α : Type} {parse : Bytes → Parsed α} {enc : Bytes} {v : α} {mk : α → Instr} {i : Instr}
    (h : Reads parse enc v) (hi : mk v = i) : withOperand (parse enc) mk = .ok (i, []) := by
  have hall := h []
  rw [List.append_nil] at hall
  simp only [withOperand, hall, hi]

theorem reads_twoBytes (f0 f1 : Byte) : Reads (parseBoth decodeByte decodeByte) [f0, f1] (f0, f1) :=
  (reads_byte f0).both (reads_byte f1)

theorem reads_wordByte (w : Word) (b : Byte) : Reads (parseBoth decodeWord decodeByte) (le16 w ++ [b]) (w, b) :=
  (reads_word w).both (reads_byte b)

theorem reads_bytesWord (m : Bytes) (w : Word) :
    Reads (parseBoth decodeBytes decodeWord) (encodeBytes m ++ le16 w) (m, w) :=
  (reads_bytes m).both (reads_word w)

theorem reads_bytesTwoBytes (m : Bytes) (f0 f1 : Byte) :
    Reads (parseBoth decodeBytes (parseBoth decodeByte decodeByte)) (encodeBytes m ++ [f0, f1]) (m, f0, f1) :=
  (reads_bytes m).both (reads_twoBytes f0 f1)

/-- Settles O12: the parser that the selector of an instruction chooses reads the operands that its encoder wrote, and
leaves nothing over. -/
theorem decodeOfEncode : Obligations.DecodeOfEncode := by
  intro i
  apply decode_of_operands
  cases i with
  | reserved | obfRst | crcClr | recv | handshake | devReset | bodyHello | bodyReset => rfl
  | obfByte b | crcByte b => exact (reads_byte b).takesAll rfl
  | obfMsg m | crcMsg m | uartWr m | send m | frameCmd m => exact (reads_bytes m).takesAll rfl
  | uartSetto t => exact Reads.takesAll (decodeDuration_encodeDuration t) rfl
  | uartRd n => exact Reads.takesAll (decodeNat_encodeNat n) rfl
  | readBlock offset length =>
    exact (reads_wordByte offset length).takesAll (mk := fun x => .readBlock x.1 x.2) rfl
  | bodyRead offset length =>
    exact (reads_wordByte offset length).takesAll (mk := fun x => .bodyRead x.1 x.2) rfl
  | writeBlock data offset | bodyWrite data offset => exact (reads_bytesWord data offset).takesAll rfl
  | frameReply body f0 f1 | replyHello body f0 f1 => exact (reads_bytesTwoBytes body f0 f1).takesAll rfl
  | replyRead head data f0 f1 => exact ((reads_bytes head).both (reads_bytesTwoBytes data f0 f1)).takesAll rfl
  | replyWriteAck mid offset tail f0 f1 =>
    exact ((reads_bytes mid).both ((reads_word offset).both (reads_bytesTwoBytes tail f0 f1))).takesAll rfl

/-- Settles O11: the seven requests are computed. -/
theorem knownWordsDecode : Obligations.KnownWordsDecode :=
  ⟨rfl, rfl, rfl, rfl, rfl, rfl, rfl⟩

end Sys2Proof.Proofs


/-! ## How an operation of the block ends -/

namespace Sys2Proof.Proofs

open Sys2Proof.Machine Sys2Proof.Safety

/-! ### What a run leaves -/

/-- What the instruction takes out of `RXQ`, from `s` to `t` (R29, R40, R136, R141). -/
def TakesOnly (s t : State) : Instr → Prop
  | .uartRd n => ∃ k, k ≤ n ∧ s.rxq.drop k <+: t.rxq
  | .recv | .readBlock _ _ | .writeBlock _ _ => s.rxq <+: t.rxq ∨ s.rxq.drop t.rxcnt.toNat <+: t.rxq
  | .handshake => ∃ k, k ≤ 5 * 263 ∧ s.rxq.drop k <+: t.rxq
  | _ => s.rxq <+: t.rxq

/-- What an instruction leaves alone, and in what range it leaves the rest, however it ends. -/
structure RunKeeps (i : Instr) (s t : State) : Prop where
  regs     : ∀ r, r ∉ mayWrite i → SameReg s t r
  moves    : t.moves = s.moves
  arrivals : t.arrivals = s.arrivals
  txlog    : s.txlog <+: t.txlog
  rxq      : TakesOnly s t i
  timeout  : t.timeout = s.timeout ∨ 0 < t.timeout.num ∧ 0 < t.timeout.den
  tries    : t.tries = s.tries ∨ t.tries.toNat ≤ 5
  txcnt    : t.txcnt = s.txcnt ∨ t.txcnt.toNat ≤ 263
  rxcnt    : t.rxcnt = s.rxcnt ∨ t.rxcnt.toNat ≤ 263

/-- The firmware string is as it was. -/
def SameFw (s t : State) : Prop := t.fwstr = s.fwstr ∧ t.fwlen = s.fwlen

/-- The firmware string is `fw`, which FWEXTRACT has found in a reply (R140). -/
structure Committed (fw : Bytes) (s t : State) : Prop where
  extracted : ∃ r, fwExtract r = fw
  ne_nil    : fw ≠ []
  fwstr     : t.fwstr = filled s.fwstr fw
  fwlen     : t.fwlen = BitVec.ofNat 5 fw.length

/-- How the run of an instruction ends, and what it has left by then: it is done, the sequencers back where they were or
idle; or it has raised one of its own errors. -/
inductive RunEnds (i : Instr) (s : State) : Ran Result → Prop where
  | done {v : Result} {t : State} : RunKeeps i s t → (t.txstate = s.txstate ∨ t.txstate = .txIdle) →
      (t.rxstate = s.rxstate ∨ t.rxstate = .rxIdle) →
      (SameFw s t ∨ i = .handshake ∧ ∃ fw, v = .bytes fw ∧ Committed fw s t) → RunEnds i s (.done v t)
  | raised {e : Raise} {t : State} : RunKeeps i s t → e.cls ∈ mayRaise i → classOfSub e.sub = e.cls → SameFw s t →
      RunEnds i s (.raised e t)

theorem RunEnds.keeps {i : Instr} {s : State} {r : Ran Result} (h : RunEnds i s r) : RunKeeps i s r.last := by
  cases h with
  | done hk | raised hk => exact hk

/-! ### The codec, the CRC engine and the channel -/

/-- A run that is done and has touched no more than `CRC`, `KIDX` and `TIMEOUT`. -/
theorem runEnds_engine {i : Instr} {s : State} {v : Result} {crc : Word} {kidx : BitVec 4} {timeout : Duration}
    (hcrc : .crc ∉ mayWrite i → crc = s.crc) (hkidx : .kidx ∉ mayWrite i → kidx = s.kidx)
    (htimeout : timeout = s.timeout ∨ .timeout ∈ mayWrite i ∧ 0 < timeout.num ∧ 0 < timeout.den)
    (hrxq : TakesOnly s { s with crc := crc, kidx := kidx, timeout := timeout } i) :
    RunEnds i s (.done v { s with crc := crc, kidx := kidx, timeout := timeout }) := by
  refine .done ⟨fun r hr => ?_, rfl, rfl, List.prefix_rfl, hrxq, htimeout.imp_right And.right, .inl rfl, .inl rfl,
    .inl rfl⟩ (.inl rfl) (.inl rfl) (.inl ⟨rfl, rfl⟩)
  cases r with
  | crc => exact hcrc hr
  | kidx => exact hkidx hr
  | timeout => exact htimeout.resolve_right fun h => hr h.1
  | txlog | tries => rfl
  | buffers => exact ⟨rfl, rfl, rfl⟩
  | fwstr => exact ⟨rfl, rfl⟩

/-- The channel takes the bytes, or fails at some point of them. -/
theorem uartWrite_choice (m : Bytes) (s : State) :
    ((writeChoice m s).fail = none ∨ m = []) ∨ ∃ k, (writeChoice m s).fail = some k ∧ m ≠ [] := by
  cases hf : (writeChoice m s).fail with
  | none => exact .inl (.inl rfl)
  | some k =>
    by_cases hm : m = []
    · exact .inl (.inr hm)
    · exact .inr ⟨k, rfl, hm⟩

/-- UART.WR appends to `TXLOG` and lets bytes arrive. -/
theorem runKeeps_uartWr (m out : Bytes) (s : State) : RunKeeps (.uartWr m) s
    { s with
      txlog := s.txlog ++ out, rxq := s.rxq ++ (writeChoice m s).arrive, writes := s.writes.tail
      free := s.free + 1 } := by
  refine ⟨fun r hr => ?_, rfl, rfl, List.prefix_append _ _, List.prefix_append _ _, .inl rfl, .inl rfl, .inl rfl,
    .inl rfl⟩
  cases r with
  | txlog => exact absurd (List.mem_singleton.mpr rfl) hr
  | crc | kidx | timeout | tries => rfl
  | buffers => exact ⟨rfl, rfl, rfl⟩
  | fwstr => exact ⟨rfl, rfl⟩

theorem runEnds_uartWr (m : Bytes) (s : State) : RunEnds (.uartWr m) s (runOf (.uartWr m) s) := by
  rw [runOf]
  rcases uartWrite_choice m s with hok | ⟨k, hf, hm⟩
  · rw [uartWrite_ok hok, result_done]
    exact .done (runKeeps_uartWr m m s) (.inl rfl) (.inl rfl) (.inl ⟨rfl, rfl⟩)
  · rw [uartWrite_fail hf hm, result_raised]
    exact .raised (runKeeps_uartWr m _ s) (List.mem_singleton.mpr rfl) rfl ⟨rfl, rfl⟩

/-- UART.RD takes bytes from the head of `RXQ` and lets bytes arrive. -/
theorem runKeeps_uartRd {n k : Nat} {q : Bytes} {s : State} (hk : k ≤ n) (hq : s.rxq.drop k <+: q) :
    RunKeeps (.uartRd n) s { s with rxq := q, reads := s.reads.tail, free := s.free + 1 } := by
  refine ⟨fun r _ => ?_, rfl, rfl, List.prefix_rfl, ⟨k, hk, hq⟩, .inl rfl, .inl rfl, .inl rfl, .inl rfl⟩
  cases r with
  | crc | kidx | timeout | txlog | tries => rfl
  | buffers => exact ⟨rfl, rfl, rfl⟩
  | fwstr => exact ⟨rfl, rfl⟩

/-- R113: what a read leaves begins with what it has not taken. -/
theorem drop_prefix_left (n : Nat) (q : Bytes) (d : ReadDraw) : q.drop n <+: left n q d := by
  rw [left, List.drop_append, List.append_assoc]
  exact List.prefix_append _ _

theorem runEnds_uartRd (n : Nat) (s : State) : RunEnds (.uartRd n) s (runOf (.uartRd n) s) := by
  rw [runOf]
  rcases uartRead_cases n s with hok | ⟨hf, hn⟩
  · rw [uartRead_ok hok, result_done]
    exact .done (runKeeps_uartRd (Nat.le_refl n) (drop_prefix_left n _ _)) (.inl rfl) (.inl rfl) (.inl ⟨rfl, rfl⟩)
  · rw [uartRead_fail hf hn, result_raised]
    refine .raised (runKeeps_uartRd (Nat.zero_le n) ?_) (List.mem_singleton.mpr rfl) rfl ⟨rfl, rfl⟩
    rw [List.append_assoc]
    exact List.prefix_append _ _

/-! ### SEND and the rows that are SEND of a body -/

/-- The instruction is SEND of the body, with no other effect (R60, R121, R147; the rows of byte strings are log 3). -/
inductive SendsBody : Instr → Bytes → Prop where
  | send (body : Bytes) : SendsBody (.send body) body
  | devReset : SendsBody .devReset Config.params.resetBody
  | frameCmd (body : Bytes) : SendsBody (.frameCmd body) body
  | bodyHello : SendsBody .bodyHello Config.params.helloBody
  | bodyRead (offset : Word) (length : Byte) : SendsBody (.bodyRead offset length) (readCommand offset length)
  | bodyWrite (data : Bytes) (offset : Word) : SendsBody (.bodyWrite data offset) (writeCommand data offset)
  | bodyReset : SendsBody .bodyReset Config.params.resetBody

theorem SendsBody.invokes {i : Instr} {body : Bytes} (h : SendsBody i body) : invokesBlock i = true := by
  cases h <;> rfl

theorem SendsBody.run {i : Instr} {body : Bytes} (h : SendsBody i body) (s : State) : runOf i s = sendRun body s := by
  cases h with
  | bodyRead offset length => rw [← readBody_eq]; rfl
  | bodyWrite data offset => rw [← writeBody_eq]; rfl
  | send | devReset | frameCmd | bodyHello | bodyReset => rfl

theorem SendsBody.mayWrite {i : Instr} {body : Bytes} (h : SendsBody i body) : mayWrite i = [.crc, .kidx, .txlog] := by
  cases h <;> rfl

theorem SendsBody.mayRaise {i : Instr} {body : Bytes} (h : SendsBody i body) : mayRaise i = [.transportError] := by
  cases h <;> rfl

theorem SendsBody.takesOnly {i : Instr} {body : Bytes} (h : SendsBody i body) {s t : State} (hq : s.rxq <+: t.rxq) :
    TakesOnly s t i := by
  cases h <;> exact hq

/-- The body of a row that is admitted fits a frame (R62, R69, R70). -/
theorem SendsBody.length_le {i : Instr} {body : Bytes} (h : SendsBody i body) (hw : i.wellFormed = true) :
    body.length ≤ 255 := by
  cases h with
  | send | frameCmd => exact (bodyFits_iff body).mp hw
  | devReset | bodyReset => exact params_wf.2
  | bodyHello => exact params_wf.1
  | bodyRead offset length => rw [← readBody_eq, readBody_length]; decide
  | bodyWrite data offset =>
    have hdata := (writeDataFits_iff data).mp hw
    rw [← writeBody_eq, writeBody_length]
    omega

/-- R29: SEND's part writes `CRC`, `KIDX` and `TXLOG` only. -/
theorem sendKeeps_sameReg {s t : State} (h : SendKeeps s t) {r : RegName} (hr : r ∉ [RegName.crc, .kidx, .txlog]) :
    SameReg s t r := by
  cases r with
  | crc | kidx | txlog => exact absurd (by simp) hr
  | timeout => exact h.timeout
  | buffers => exact ⟨h.rxhdr, h.rxbody, h.rxftr⟩
  | tries => exact h.tries
  | fwstr => exact ⟨h.fwstr, h.fwlen⟩

theorem runEnds_sendsBody {i : Instr} {body : Bytes} (h : SendsBody i body) (hw : i.wellFormed = true) (s : State) :
    RunEnds i s (runOf i s) := by
  obtain ⟨hk, n, hn, htx⟩ := sendBody_last Config.params body s
  have hlen := h.length_le hw
  have keeps : RunKeeps i s (sendBody Config.params body s).last :=
    { regs := fun r hr => sendKeeps_sameReg hk (h.mayWrite ▸ hr)
      moves := hk.moves, arrivals := hk.arrivals, txlog := hk.txlog, rxq := h.takesOnly hk.rxq
      timeout := .inl hk.timeout, tries := .inl hk.tries
      txcnt := .inr (htx ▸ toNat_ofNat9_le (by omega)), rxcnt := .inl hk.rxcnt }
  rw [h.run, sendRun]
  cases hs : sendBody Config.params body s with
  | done u t =>
    rw [hs, Ran.last_done] at hk keeps
    exact .done keeps (.inr (sendBody_done hs)) (.inl hk.rxstate) (.inl ⟨hk.fwstr, hk.fwlen⟩)
  | raised e t =>
    rw [hs, Ran.last_raised] at hk keeps
    obtain ⟨hsub, hcls, -⟩ := sendBody_raises hs
    exact .raised keeps (by rw [h.mayRaise, hcls]; exact List.mem_singleton.mpr rfl) (by rw [hsub, hcls]; rfl)
      ⟨hk.fwstr, hk.fwlen⟩

/-! ### RECV and the composites -/

/-- R29: RECV's part writes `KIDX` and the buffers only. -/
theorem recvKeeps_sameReg {s t : State} (h : RecvKeeps s t) {r : RegName} (hr : r ∉ mayWrite .recv) :
    SameReg s t r := by
  cases r with
  | kidx | buffers => exact absurd (by simp [mayWrite]) hr
  | crc => exact h.crc
  | timeout => exact h.timeout
  | txlog => exact h.sent
  | tries => exact h.tries
  | fwstr => exact ⟨h.fwstr, h.fwlen⟩

/-- R132: the count in `RXCNT` is the number of bytes consumed. -/
theorem consumed_drop_rxcnt {s t : State} {n : Nat} (h : Consumed s t n) (hn : n ≤ 263) :
    s.rxq.drop t.rxcnt.toNat <+: t.rxq := by
  have hcnt : (BitVec.ofNat 9 n).toNat = n := by simp only [BitVec.toNat_ofNat]; omega
  rw [h.rxcnt, hcnt]
  exact h.rxq

theorem runKeeps_recv {s t : State} {n : Nat} (h : Consumed s t n) (hn : n ≤ 263) : RunKeeps .recv s t where
  regs _ hr := recvKeeps_sameReg h.toRecvKeeps hr
  moves := h.moves
  arrivals := h.arrivals
  txlog := h.txlog
  rxq := .inr (consumed_drop_rxcnt h hn)
  timeout := .inl h.timeout
  tries := .inl h.tries
  txcnt := .inl h.txcnt
  rxcnt := .inr (h.rxcnt ▸ toNat_ofNat9_le hn)

theorem runEnds_recv (s : State) : RunEnds .recv s (runOf .recv s) := by
  rw [runOf]
  have hends := recvBody_ends Config.params s
  cases hr : recvBody Config.params s with
  | done r t =>
    rw [hr] at hends
    obtain ⟨hc, hn, -⟩ | ⟨⟩ := hends
    exact .done (runKeeps_recv hc hn) (.inl hc.txstate) (.inr (recvBody_done hr)) (.inl ⟨hc.fwstr, hc.fwlen⟩)
  | raised e t =>
    rw [hr] at hends
    obtain ⟨⟩ | ⟨hc, hn, he⟩ := hends
    exact .raised (runKeeps_recv hc hn) (by rcases he.cls with h | h <;> rw [h] <;> simp [mayRaise]) he.sub
      ⟨hc.fwstr, hc.fwlen⟩

/-- A composite that exchanges one command of at most 255 bytes. -/
theorem runKeeps_exchange {i : Instr} {len : Nat} {s t : State} (h : ExchangeKeeps len s t) (hlen : len ≤ 255)
    (hw : mayWrite i = [.crc, .kidx, .txlog, .buffers])
    (hq : s.rxq <+: t.rxq ∨ s.rxq.drop t.rxcnt.toNat <+: t.rxq → TakesOnly s t i) : RunKeeps i s t := by
  obtain ⟨n, hn, htx⟩ := h.txcnt
  refine ⟨fun r hr => ?_, h.moves, h.arrivals, h.txlog, hq ?_, .inl h.timeout, .inl h.tries,
    .inr (htx ▸ toNat_ofNat9_le (by omega)), ?_⟩
  · rw [hw] at hr
    cases r with
    | crc | kidx | txlog | buffers => exact absurd (by simp) hr
    | timeout => exact h.timeout
    | tries => exact h.tries
    | fwstr => exact ⟨h.fwstr, h.fwlen⟩
  · rcases h.rx with ⟨-, hall⟩ | ⟨m, hm, hcnt, hrest⟩
    · exact .inl hall
    · have hm' : (BitVec.ofNat 9 m).toNat = m := by simp only [BitVec.toNat_ofNat]; omega
      rw [hcnt, hm']
      exact .inr hrest
  · rcases h.rx with ⟨hcnt, -⟩ | ⟨m, hm, hcnt, -⟩
    · exact .inl hcnt
    · exact .inr (hcnt ▸ toNat_ofNat9_le hm)

/-- A check of a reply by an instruction: it touches no state, and its error is one of the instruction's own. -/
inductive CheckEnds {α : Type} (i : Instr) (t : State) : Ran α → Prop where
  | done (a : α) : CheckEnds i t (.done a t)
  | raised (sub : ErrSub) (exp act : Nat) : classOfSub sub ∈ mayRaise i → CheckEnds i t (.raised (report sub exp act) t)

theorem CheckEnds.last {α : Type} {i : Instr} {t : State} {r : Ran α} (h : CheckEnds i t r) : r.last = t := by
  cases h <;> rfl

/-- A composite ends as its check does. -/
theorem CheckEnds.runEnds {α : Type} {i : Instr} {mk : α → Result} {off : Word} {s t : State} {r : Ran α}
    (h : CheckEnds i t r) (keeps : RunKeeps i s t) (htx : t.txstate = .txIdle) (hrx : t.rxstate = .rxIdle)
    (hfw : SameFw s t) : RunEnds i s (result mk (addOff off r)) := by
  cases h with
  | done a => exact .done keeps (.inr htx) (.inr hrx) (.inl hfw)
  | raised sub exp act hsub => exact .raised keeps hsub rfl hfw

theorem checkRead_ends (offset : Word) (length : Byte) (r : Bytes) (t : State) :
    CheckEnds (.readBlock offset length) t (checkRead length r t) := by
  unfold checkRead
  split
  · exact .raised _ _ _ (by simp [classOfSub, mayRaise])
  · exact .done _

theorem checkAck_ends (p : Params) (data : Bytes) (offset : Word) (r : Bytes) (t : State) :
    CheckEnds (.writeBlock data offset) t (checkAck p offset r t) := by
  have hprotocol : ErrClass.protocolError ∈ mayRaise (.writeBlock data offset) := by simp [mayRaise]
  unfold checkAck
  split
  · exact .raised .shortAck _ _ hprotocol
  · split
    · exact .raised .badAckOpcode _ _ hprotocol
    · split
      · exact .raised .badAckOffset _ _ hprotocol
      · exact .done _

/-- A command is sent, a reply taken and checked: what the exchange leaves, with the errors of SEND, of RECV and of the
check. -/
theorem runEnds_composite {α : Type} {i : Instr} {mk : α → Result} {off : Word} {body : Bytes}
    {check : Bytes → State → Ran α} (hlen : body.length ≤ 255) (hw : mayWrite i = [.crc, .kidx, .txlog, .buffers])
    (hq : ∀ {s t : State}, s.rxq <+: t.rxq ∨ s.rxq.drop t.rxcnt.toNat <+: t.rxq → TakesOnly s t i)
    (hcls : ErrClass.transportError ∈ mayRaise i ∧ ErrClass.framingError ∈ mayRaise i)
    (hcheck : ∀ r t, CheckEnds i t (check r t)) (s : State) :
    RunEnds i s (result mk (addOff off (andThen (sendBody Config.params body s) fun _ s =>
      andThen (recvBody Config.params s) fun r s => check r s))) := by
  have hx := exchange_last Config.params body check (fun r t => (hcheck r t).last) s
  have keeps := runKeeps_exchange hx hlen hw hq
  rcases exchange_cases Config.params body check s with ⟨e, t, h, he⟩ | ⟨r, t, h, -, htx, hrx⟩
  · rw [h] at hx keeps ⊢
    exact .raised keeps (he.cls.elim (fun hc => hc ▸ hcls.1) (fun hc => hc ▸ hcls.2)) he.sub ⟨hx.fwstr, hx.fwlen⟩
  · rw [h] at hx keeps ⊢
    rw [(hcheck r t).last] at hx keeps
    exact (hcheck r t).runEnds keeps htx hrx ⟨hx.fwstr, hx.fwlen⟩

theorem runEnds_readBlock (offset : Word) (length : Byte) (s : State) :
    RunEnds (.readBlock offset length) s (runOf (.readBlock offset length) s) :=
  runEnds_composite (by rw [readBody_length]; decide) rfl id (by simp [mayRaise]) (checkRead_ends offset length) s

theorem runEnds_writeBlock {data : Bytes} (offset : Word) (hdata : data.length ≤ 243) (s : State) :
    RunEnds (.writeBlock data offset) s (runOf (.writeBlock data offset) s) :=
  runEnds_composite (by rw [writeBody_length]; omega) rfl id (by simp [mayRaise]) (checkAck_ends Config.params data offset)
    s

theorem runKeeps_handshake {s t : State} (h : LoopKeeps (5 * 263) { s with tries := 5 } t) :
    RunKeeps .handshake s t where
  regs r hr := by
    cases r with
    | timeout => exact h.timeout
    | crc | kidx | txlog | buffers | tries | fwstr => exact absurd (by simp [mayWrite]) hr
  moves := h.moves
  arrivals := h.arrivals
  txlog := h.txlog
  rxq := h.rxq
  timeout := .inl h.timeout
  tries := .inr (h.tries.elim (fun heq => by rw [heq]; exact toNat_ofNat3_le (Nat.le_refl 5)) id)
  txcnt := h.txcnt
  rxcnt := h.rxcnt

/-- The firmware string is no part of what `RunKeeps .handshake` says. -/
theorem RunKeeps.commit {s t : State} (h : RunKeeps .handshake s t) (fwstr : Vector Byte 18) (fwlen : BitVec 5) :
    RunKeeps .handshake s { t with fwstr := fwstr, fwlen := fwlen } where
  regs r hr := by
    cases r with
    | timeout => exact h.regs .timeout hr
    | crc | kidx | txlog | buffers | tries | fwstr => exact absurd (by simp [mayWrite]) hr
  moves := h.moves
  arrivals := h.arrivals
  txlog := h.txlog
  rxq := h.rxq
  timeout := h.timeout
  tries := h.tries
  txcnt := h.txcnt
  rxcnt := h.rxcnt

theorem runEnds_handshake (s : State) : RunEnds .handshake s (runOf .handshake s) := by
  rw [runOf]
  rcases handshakeBody_cases s with ⟨e, t, h, he, hl⟩ | ⟨b, rest, t, h, hfw, hl, htx, hrx⟩
  · rw [h, result_raised]
    have hcls : e.cls ∈ mayRaise .handshake := by rcases he.cls with hc | hc | hc <;> rw [hc] <;> simp [mayRaise]
    exact .raised (runKeeps_handshake hl) hcls he.sub ⟨hl.fwstr, hl.fwlen⟩
  · rw [h, result_done]
    have hcommitted : Committed (b :: rest) s
        { t with fwstr := overwrite t.fwstr (b :: rest), fwlen := BitVec.ofNat 5 (b :: rest).length } :=
      { extracted := hfw, ne_nil := List.cons_ne_nil b rest
        fwstr := by rw [overwrite_eq_filled, hl.fwstr], fwlen := rfl }
    exact .done ((runKeeps_handshake hl).commit _ _) (.inr htx) (.inr hrx) (.inr ⟨rfl, _, rfl, hcommitted⟩)

/-! ### Every operation -/

/-- Whatever operation of the block it is and whatever the environment does, the run ends as `RunEnds` says. -/
theorem runOf_ends {i : Instr} (hi : invokesBlock i = true) (hw : i.wellFormed = true) (s : State) :
    RunEnds i s (runOf i s) := by
  cases i with
  | reserved | frameReply | replyHello | replyRead | replyWriteAck => contradiction
  | obfRst | obfByte | obfMsg => exact runEnds_engine (fun _ => rfl) (by simp [mayWrite]) (.inl rfl) List.prefix_rfl
  | crcClr | crcByte | crcMsg => exact runEnds_engine (by simp [mayWrite]) (fun _ => rfl) (.inl rfl) List.prefix_rfl
  | uartSetto t =>
    exact runEnds_engine (fun _ => rfl) (fun _ => rfl) (.inr ⟨List.mem_singleton.mpr rfl, (durationAdmitted_iff t).mp hw⟩)
      List.prefix_rfl
  | uartWr m => exact runEnds_uartWr m s
  | uartRd n => exact runEnds_uartRd n s
  | send body => exact runEnds_sendsBody (.send body) hw s
  | frameCmd body => exact runEnds_sendsBody (.frameCmd body) hw s
  | devReset => exact runEnds_sendsBody .devReset hw s
  | bodyHello => exact runEnds_sendsBody .bodyHello hw s
  | bodyRead offset length => exact runEnds_sendsBody (.bodyRead offset length) hw s
  | bodyWrite data offset => exact runEnds_sendsBody (.bodyWrite data offset) hw s
  | bodyReset => exact runEnds_sendsBody .bodyReset hw s
  | recv => exact runEnds_recv s
  | handshake => exact runEnds_handshake s
  | readBlock offset length => exact runEnds_readBlock offset length s
  | writeBlock data offset => exact runEnds_writeBlock offset ((writeDataFits_iff data).mp hw) s

/-- What an instruction that answers a next state has done: it was refused, it was an operation of the block that ran to
its end, or it put a frame on the line. -/
theorem exec_next_cases {i : Instr} {s t : State} (h : exec i s = .next t) :
    (∃ why, t = refuse why s) ∨
    (invokesBlock i = true ∧ ∃ r, t = endOp r ∧ RunEnds i s r) ∨
    (invokesBlock i = false ∧ t = { s with rxq := s.rxq ++ frameOf i }) := by
  rcases exec_cases i s with ⟨why, h'⟩ | ⟨hi, -, hw, h'⟩ | ⟨hi, -, h'⟩ <;> cases h'.symm.trans h
  · exact .inl ⟨why, rfl⟩
  · exact .inr (.inl ⟨hi, _, rfl, runOf_ends hi hw s⟩)
  · exact .inr (.inr ⟨hi, rfl⟩)

end Sys2Proof.Proofs


/-! ## Rules of the whole machine -/

namespace Sys2Proof.Proofs

open Sys2Proof.Machine Sys2Proof.Safety

/-! ### What every instruction leaves -/

/-- Bytes that nobody takes are in place for every instruction. -/
theorem TakesOnly.of_prefix {s t : State} (h : s.rxq <+: t.rxq) (i : Instr) : TakesOnly s t i := by
  cases i with
  | uartRd n => exact ⟨0, Nat.zero_le n, h⟩
  | recv | readBlock | writeBlock => exact .inl h
  | handshake => exact ⟨0, Nat.zero_le _, h⟩
  | _ => exact h

/-- A refusal and a delivery write the answer to the host and the tail of `RXQ` only. -/
theorem runKeeps_answered {s : State} {q : Bytes} (hq : s.rxq <+: q) (i : Instr) (resp : Resp) :
    RunKeeps i s { s with rxq := q, resp := resp } := by
  refine ⟨fun r _ => ?_, rfl, rfl, List.prefix_rfl, .of_prefix hq i, .inl rfl, .inl rfl, .inl rfl, .inl rfl⟩
  cases r with
  | buffers => exact ⟨rfl, rfl, rfl⟩
  | fwstr => exact ⟨rfl, rfl⟩
  | crc | kidx | timeout | txlog | tries => rfl

/-- The end of an operation touches nothing that `RunKeeps` speaks of. -/
theorem RunKeeps.endOp {i : Instr} {s : State} {r : Ran Result} (h : RunKeeps i s r.last) : RunKeeps i s (endOp r) := by
  cases r with
  | done v t => exact ⟨h.regs, h.moves, h.arrivals, h.txlog, h.rxq, h.timeout, h.tries, h.txcnt, h.rxcnt⟩
  | raised e t => exact ⟨h.regs, h.moves, h.arrivals, h.txlog, h.rxq, h.timeout, h.tries, h.txcnt, h.rxcnt⟩

theorem exec_keeps {i : Instr} {s t : State} (h : exec i s = .next t) : RunKeeps i s t := by
  rcases exec_next_cases h with ⟨why, rfl⟩ | ⟨-, r, rfl, hends⟩ | ⟨-, rfl⟩
  · exact runKeeps_answered List.prefix_rfl i (.refused why)
  · exact hends.keeps.endOp
  · exact runKeeps_answered (List.prefix_append _ _) i s.resp

/-- Settles O59: `RunKeeps` says it of the run of each instruction, a refusal and a delivery write no register. -/
theorem registersKeepTheirWriters : Obligations.RegistersKeepTheirWriters := by
  intro i s t h
  have hk := exec_keeps h
  exact ⟨hk.regs, hk.moves, hk.arrivals⟩

/-! ### The step -/

/-- R52, R116: a step lets bytes arrive and waits, or then refuses the next request, or then runs it. -/
theorem step_cases {s t : State} (h : step s = .next t) :
    t = arrive s ∨ (∃ rest, t = refuse .undecodable { arrive s with moves := rest }) ∨
    ∃ i rest, exec i { arrive s with moves := rest } = .next t := by
  unfold step at h
  split at h
  · cases h
    exact .inl rfl
  · rename_i request rest _
    unfold runRequest at h
    split at h
    · exact .inr (.inr ⟨_, rest, h⟩)
    · cases h
      exact .inr (.inl ⟨rest, rfl⟩)

/-- R15, R51: what has been sent stays sent. -/
theorem step_txlog {s t : State} (h : step s = .next t) : s.txlog <+: t.txlog := by
  rcases step_cases h with rfl | ⟨rest, rfl⟩ | ⟨i, rest, hexec⟩
  · exact List.prefix_rfl
  · exact List.prefix_rfl
  · exact (exec_keeps hexec).txlog

theorem TakesOnly.of_not_receives {i : Instr} {s t : State} (h : TakesOnly s t i) (hi : receives i = false) :
    s.rxq <+: t.rxq := by
  cases i with
  | uartRd | recv | handshake | readBlock | writeBlock => contradiction
  | _ => exact h

/-- Settles O58: `TakesOnly` says of each instruction what it takes, and it holds of every run, refusal and delivery. -/
theorem streamsKeepTheirOrder : Obligations.StreamsKeepTheirOrder := by
  refine ⟨fun s t => step_txlog, fun i s t h => ?_⟩
  have hq := (exec_keeps h).rxq
  refine ⟨hq.of_not_receives, ?_, ?_, ?_⟩
  · rintro n rfl
    exact hq
  · rintro (rfl | ⟨o, l, rfl⟩ | ⟨d, o, rfl⟩) <;> exact hq
  · rintro rfl
    exact hq

/-! ### Errors -/

theorem none_notMem_mayRaise (i : Instr) : ErrClass.none ∉ mayRaise i := by
  cases i <;> simp [mayRaise]

/-- An operation whose answer is that it raised has taken error entry from a run that raised one of its own errors. -/
theorem exec_raised_cases {i : Instr} {s t : State} (hi : invokesBlock i = true) (h : exec i s = .next t)
    (hraised : t.resp = .raised) :
    ∃ e u, t = raiseOp e u ∧ e.cls ∈ mayRaise i ∧ classOfSub e.sub = e.cls ∧ SameFw s u := by
  rcases exec_next_cases h with ⟨why, rfl⟩ | ⟨-, r, rfl, hends⟩ | ⟨hi', -⟩
  · contradiction
  · cases hends with
    | done => contradiction
    | raised _ hcls hsub hfw => exact ⟨_, _, rfl, hcls, hsub, hfw⟩
  · rw [hi] at hi'
    contradiction

/-- Settles O57. -/
theorem operationsRaiseTheirOwnClasses : Obligations.OperationsRaiseTheirOwnClasses := by
  intro i s t hi h hraised
  obtain ⟨e, u, rfl, hcls, -⟩ := exec_raised_cases hi h hraised
  exact hcls

/-- Settles O7: error entry is `failed` by definition, and every operation that raises takes it with the class of its
sub-cause, before anything has been committed. -/
theorem errorEntry : Obligations.ErrorEntry := by
  refine ⟨fun _ _ => rfl, fun i s t hi h hraised => ?_⟩
  obtain ⟨e, u, rfl, hcls, hsub, hfwstr, hfwlen⟩ := exec_raised_cases hi h hraised
  have hne : e.cls ≠ .none := fun hnone => none_notMem_mayRaise i (hnone ▸ hcls)
  exact ⟨rfl, rfl, rfl, rfl, hne, hsub, hfwstr, hfwlen⟩

/-! ### Idleness -/

/-- R211: an operation that has run from idle sequencers has ended in an idle block. -/
theorem RunEnds.idle {i : Instr} {s : State} {r : Ran Result} (h : RunEnds i s r) (hs : BlockIdle s) :
    BlockIdle (endOp r) := by
  cases h with
  | done _ htx hrx =>
    exact ⟨rfl, rfl, htx.elim (fun h => h.trans hs.txstate) id, hrx.elim (fun h => h.trans hs.rxstate) id⟩
  | raised => exact ⟨rfl, rfl, rfl, rfl⟩

/-- Every instruction answers a next state. -/
theorem exec_answers (i : Instr) (s : State) : ∃ t, exec i s = .next t := by
  rcases exec_cases i s with ⟨why, h⟩ | ⟨-, -, -, h⟩ | ⟨-, -, h⟩ <;> exact ⟨_, h⟩

/-- Settles O6: a refusal leaves the error report, the end of a run writes it. -/
theorem everyOperationEndsIdle : Obligations.EveryOperationEndsIdle := by
  intro i s hs hi
  obtain ⟨t, h⟩ := exec_answers i s
  refine ⟨t, h, ?_⟩
  rcases exec_next_cases h with ⟨why, rfl⟩ | ⟨-, r, rfl, hends⟩ | ⟨hi', -⟩
  · exact ⟨⟨hs.busy, hs.op, hs.txstate, hs.rxstate⟩, .inl ⟨why, rfl, rfl, rfl, rfl⟩⟩
  · refine ⟨hends.idle hs, .inr ?_⟩
    cases hends with
    | done => exact .inl ⟨_, rfl, rfl, rfl⟩
    | raised _ hcls hsub => exact .inr ⟨rfl, fun hnone => none_notMem_mayRaise i (hnone ▸ hcls), hsub⟩
  · rw [hi] at hi'
    contradiction

/-! ### The firmware string -/

theorem filled_getElem {n : Nat} (v : Vector Byte n) (b : Bytes) (j : Nat) (hj : j < n) (hb : j < b.length) :
    (filled v b)[j] = b[j] := by
  simp only [filled, Vector.getElem_ofFn, dif_pos hb]

section Committed

variable {fw : Bytes} {s t : State} (h : Committed fw s t)

include h

theorem Committed.length_le : fw.length ≤ 18 := by
  obtain ⟨r, rfl⟩ := h.extracted
  exact fwTake_length 18 _

theorem Committed.fwlen_toNat : t.fwlen.toNat = fw.length := by
  have := h.length_le
  rw [h.fwlen, BitVec.toNat_ofNat]
  omega

theorem Committed.fwstr_getElem (j : Nat) (hj : j < 18) (hfw : j < fw.length) : t.fwstr[j] = fw[j] := by
  simp only [h.fwstr, filled_getElem s.fwstr fw j hj hfw]

/-- R25: a committed string is a legal one. -/
theorem Committed.fwPrintable : FwPrintable t where
  len := h.fwlen_toNat ▸ h.length_le
  bytes i hi hlt := by
    have hfw : i < fw.length := h.fwlen_toNat ▸ hlt
    obtain ⟨r, hr⟩ := h.extracted
    rw [h.fwstr_getElem i hi hfw, ← printable_iff]
    exact fwTake_printable 18 (r.drop 4) _ (hr ▸ List.getElem_mem hfw)

end Committed

/-- Only a HANDSHAKE that returns changes the firmware string. -/
theorem exec_fw {i : Instr} {s t : State} (h : exec i s = .next t) :
    SameFw s t ∨ i = .handshake ∧ ∃ fw, t.resp = .returned (.bytes fw) ∧ Committed fw s t := by
  rcases exec_next_cases h with ⟨why, rfl⟩ | ⟨-, r, rfl, hends⟩ | ⟨-, rfl⟩
  · exact .inl ⟨rfl, rfl⟩
  · cases hends with
    | done _ _ _ hfw =>
      rcases hfw with hsame | ⟨hi, fw, rfl, hc⟩
      · exact .inl hsame
      · exact .inr ⟨hi, fw, rfl, hc.extracted, hc.ne_nil, hc.fwstr, hc.fwlen⟩
    | raised _ _ _ hfw => exact .inl hfw
  · exact .inl ⟨rfl, rfl⟩

/-- Settles O49. -/
theorem firmwareStringOnlyFromHandshake : Obligations.FirmwareStringOnlyFromHandshake := by
  intro i s t h
  rcases exec_fw h with hsame | ⟨hi, fw, hresp, hc⟩
  · exact .inl hsame
  · exact .inr ⟨hi, fw, hresp, hc.fwlen_toNat, List.length_pos_of_ne_nil hc.ne_nil, hc.fwstr_getElem⟩

/-! ### The block invariant -/

/-- The invariant says nothing of `RXQ`, of the requests, of the scripts and of the answer to the host. -/
theorem blockInv_hostSide {s : State} (h : BlockInv s) (rxq : Bytes) (moves arrivals : List Bytes) (free : Nat)
    (resp : Resp) :
    BlockInv { s with rxq := rxq, moves := moves, arrivals := arrivals, free := free, resp := resp } :=
  ⟨⟨h.idle.busy, h.idle.op, h.idle.txstate, h.idle.rxstate⟩, ⟨h.fw.len, h.fw.bytes⟩, h.tries, h.txcnt, h.rxcnt,
    h.timeout, h.err⟩

theorem fwPrintable_of_sameFw {s t : State} (h : FwPrintable s) (hsame : SameFw s t) : FwPrintable t := by
  obtain ⟨hfwstr, hfwlen⟩ := hsame
  refine ⟨hfwlen ▸ h.len, fun i hi hlt => ?_⟩
  have hbyte : t.fwstr[i] = s.fwstr[i] := by simp only [hfwstr]
  rw [hbyte]
  exact h.bytes i hi (hfwlen ▸ hlt)

/-- The end of an operation writes a report whose class is that of its sub-cause. -/
theorem RunEnds.errClass {i : Instr} {s : State} {r : Ran Result} (h : RunEnds i s r) :
    classOfSub (endOp r).errsub = (endOp r).err := by
  cases h with
  | done => rfl
  | raised _ _ hsub => exact hsub

/-- Every instruction keeps the invariant. -/
theorem exec_keeps_blockInv {i : Instr} {s t : State} (hs : BlockInv s) (h : exec i s = .next t) : BlockInv t := by
  have hfw : FwPrintable t := (exec_fw h).elim (fwPrintable_of_sameFw hs.fw) fun ⟨_, _, _, hc⟩ => hc.fwPrintable
  have hk := exec_keeps h
  have hidle : BlockIdle t ∧ classOfSub t.errsub = t.err := by
    rcases exec_next_cases h with ⟨why, rfl⟩ | ⟨-, r, rfl, hends⟩ | ⟨-, rfl⟩
    · have hinv := blockInv_hostSide hs s.rxq s.moves s.arrivals s.free (.refused why)
      exact ⟨hinv.idle, hinv.err⟩
    · exact ⟨hends.idle hs.idle, hends.errClass⟩
    · have hinv := blockInv_hostSide hs (s.rxq ++ frameOf i) s.moves s.arrivals s.free s.resp
      exact ⟨hinv.idle, hinv.err⟩
  exact
    { idle := hidle.1, fw := hfw, err := hidle.2
      tries := hk.tries.elim (fun heq => heq ▸ hs.tries) id
      txcnt := hk.txcnt.elim (fun heq => heq ▸ hs.txcnt) id
      rxcnt := hk.rxcnt.elim (fun heq => heq ▸ hs.rxcnt) id
      timeout := hk.timeout.elim (fun heq => heq ▸ hs.timeout) id }

/-- Settles O3: bytes that arrive, a request taken and a refusal do not touch what the invariant speaks of, and every
instruction keeps it. -/
theorem stepKeepsInv : Obligations.StepKeepsInv := by
  intro s t hs h
  rcases step_cases h with rfl | ⟨rest, rfl⟩ | ⟨i, rest, hexec⟩
  · exact blockInv_hostSide hs _ _ _ _ _
  · exact blockInv_hostSide hs _ _ _ _ _
  · exact exec_keeps_blockInv (blockInv_hostSide hs _ _ _ _ _) hexec

/-- Settles O2. -/
theorem resetMeetsInv : Obligations.ResetMeetsInv :=
  ⟨⟨rfl, rfl, rfl, rfl⟩, ⟨by decide, fun i _ hlt => absurd hlt (Nat.not_lt_zero i)⟩, by decide, by decide, by decide,
    by decide, rfl⟩

end Sys2Proof.Proofs


/-! ## The codec and the CRC engine, operation by operation (spec/40_obfuscation.md, spec/41_crc.md) -/

namespace Sys2Proof.Proofs

open Sys2Proof.Machine Sys2Proof.Safety

/-- An admitted instruction whose run is done has the end of an operation that returns. -/
theorem exec_returns {i : Instr} {s t : State} {v : Result} (hi : invokesBlock i = true) (hb : s.busy = false)
    (hw : i.wellFormed = true) (hrun : runOf i s = .done v t) : exec i s = .next (succeeded v t) := by
  rw [exec_runs hi hb hw, hrun, endOp_done, returnOp_eq]

/-- An admitted instruction whose run raises has the end of an operation that raises. -/
theorem exec_raises {i : Instr} {s t : State} {e : Raise} (hi : invokesBlock i = true) (hb : s.busy = false)
    (hw : i.wellFormed = true) (hrun : runOf i s = .raised e t) :
    exec i s = .next (failed e.cls e.sub e.exp e.act e.off t) := by
  rw [exec_runs hi hb hw, hrun, endOp_raised, raiseOp_eq]

/-! ### OBF -/

/-- Settles O13. -/
theorem obfRstClearsIndex : Obligations.ObfRstClearsIndex :=
  fun _ hb => exec_returns rfl hb rfl rfl

/-- R92: OBF.BYTE. -/
theorem exec_obfByte {s : State} (b : Byte) (hb : s.busy = false) :
    exec (.obfByte b) s =
      .next (succeeded (.byte (b ^^^ keyAt Config.key s.kidx.toNat)) { s with kidx := s.kidx + 1 }) :=
  exec_returns rfl hb rfl rfl

theorem keyAt_kidx (key : Vector Byte 16) (k : BitVec 4) : keyAt key k.toNat = key[k.toNat]'k.isLt := by
  simp only [keyAt, Nat.mod_eq_of_lt k.isLt]

/-- Settles O14: adding 1 to the 4 bits of `KIDX` is adding it modulo 16. -/
theorem obfByteXorsKey : Obligations.ObfByteXorsKey := by
  intro s b hb
  refine ⟨s.kidx + 1, BitVec.toNat_add s.kidx 1, ?_⟩
  rw [exec_obfByte b hb, keyAt_kidx]

/-- Settles O16: the codec is its own inverse. -/
theorem obfMsgIsInvolution : Obligations.ObfMsgIsInvolution := by
  intro s m hb
  refine ⟨obf Config.key m, _, _, exec_obfMsg m hb, rfl, exec_obfMsg _ rfl, ?_⟩
  rw [obf_obf]
  rfl

/-- Settles O17: the codec works position by position. -/
theorem obfPrefixLaw : Obligations.ObfPrefixLaw := by
  refine fun key u v => ⟨by rw [← obf_take, List.take_left], fun j h => ?_⟩
  rw [obf_getElem?, List.getElem?_append_right (Nat.le_add_right _ _), Nat.add_sub_cancel_left,
    List.getElem?_eq_getElem h]
  rfl

theorem execAll_cons {i : Instr} {is : List Instr} {s t u : State} {rs : List Resp} (h : exec i s = .next t)
    (hrest : execAll is t = some (rs, u)) : execAll (i :: is) s = some (t.resp :: rs, u) := by
  rw [execAll, h]
  simp only [hrest]

/-- R92: OBF.BYTE of the bytes of a message in turn, from any position of the key. -/
theorem execAll_obfByte (m : Bytes) {s : State} {k : Nat} (hb : s.busy = false) (hk : s.kidx = BitVec.ofNat 4 k) :
    ∃ t, execAll (m.map Instr.obfByte) s =
      some (m.mapIdx fun i b => Resp.returned (.byte (b ^^^ keyAt Config.key (k + i))), t) := by
  induction m generalizing s k with
  | nil => exact ⟨s, rfl⟩
  | cons b rest ih =>
    have hexec := exec_obfByte b hb
    rw [hk, keyAt_ofNat, ofNat4_succ] at hexec
    obtain ⟨t, ht⟩ := ih (s := succeeded (.byte (b ^^^ keyAt Config.key k)) { s with kidx := BitVec.ofNat 4 (k + 1) })
      rfl rfl
    refine ⟨t, (execAll_cons hexec ht).trans ?_⟩
    simp only [List.mapIdx_cons, Nat.add_zero, Nat.add_assoc, Nat.add_comm 1]
    rfl

/-- Settles O18: OBF.RST puts the key to position 0, and the bytes go on from there. -/
theorem obfBytesInTurnGiveMessage : Obligations.ObfBytesInTurnGiveMessage := by
  intro s m hb
  obtain ⟨t, ht⟩ := execAll_obfByte m (s := succeeded .none { s with kidx := 0 }) (k := 0) rfl rfl
  simp only [Nat.zero_add] at ht
  exact ⟨t, execAll_cons (obfRstClearsIndex s hb) ht⟩

/-! ### CRC -/

/-- Settles O19. -/
theorem crcClrClears : Obligations.CrcClrClears :=
  fun _ hb => exec_returns rfl hb rfl rfl

/-- R102: CRC.BYTE. -/
theorem exec_crcByte {s : State} (b : Byte) (hb : s.busy = false) :
    exec (.crcByte b) s = .next (succeeded (.word (crcByte s.crc b)) { s with crc := crcByte s.crc b }) :=
  exec_returns rfl hb rfl rfl

theorem crcBits_eq_iterate (n : Nat) (c : Word) : crcBits n c = crcBit^[n] c := by
  induction n generalizing c with
  | zero => rfl
  | succ n ih => exact ih (crcBit c)

/-- Settles O20: eight bit steps are the bit step iterated eight times. -/
theorem crcByteDividesBitSerially : Obligations.CrcByteDividesBitSerially :=
  fun s b hb => ⟨crcByte s.crc b, crcBits_eq_iterate 8 _, exec_crcByte b hb⟩

theorem crc16_append (m l : Bytes) : crc16 (m ++ l) = l.foldl crcByte (crc16 m) := List.foldl_append

/-- R104: the check value of the CRC. -/
theorem crc16_check : crc16 [0x31, 0x32, 0x33, 0x34, 0x35, 0x36, 0x37, 0x38, 0x39] = 0x31C3 := by
  simp [crc16, crcByte, crcBits, crcBit, Config.crcInit, Config.crcPoly]

/-- Settles O21: `crc16` is the fold of the byte step; the check value is computed. -/
theorem crcMsgRunsBytesInOrder : Obligations.CrcMsgRunsBytesInOrder :=
  ⟨fun _ _ hb => exec_returns rfl hb rfl rfl, fun m b => crc16_append m [b], rfl, crc16_check⟩

/-- R102: CRC.BYTE of the bytes of a message in turn folds them into `CRC`. -/
theorem execAll_crcByte (m : Bytes) {s : State} (hb : s.busy = false) :
    ∃ rs t, execAll (m.map Instr.crcByte) s = some (rs, t) ∧ t.crc = m.foldl crcByte s.crc ∧ rs.length = m.length := by
  induction m generalizing s with
  | nil => exact ⟨[], s, rfl, rfl, rfl⟩
  | cons b rest ih =>
    obtain ⟨rs, t, ht, hcrc, hlen⟩ :=
      ih (s := succeeded (.word (crcByte s.crc b)) { s with crc := crcByte s.crc b }) rfl
    exact ⟨_, t, execAll_cons (exec_crcByte b hb) ht, hcrc, congrArg (· + 1) hlen⟩

/-- Settles O22: after CRC.CLR the fold begins at the initial value of the engine. -/
theorem crcBytesInTurnGiveMessage : Obligations.CrcBytesInTurnGiveMessage := by
  intro s m hb
  obtain ⟨rs, t, ht, hcrc, hlen⟩ := execAll_crcByte m (s := succeeded .none { s with crc := 0x0000 }) rfl
  exact ⟨_, t, execAll_cons (crcClrClears s hb) ht, hcrc, congrArg (· + 1) hlen⟩

/-- R105: the byte step is linear, so the fold is. -/
theorem foldl_crcByte_xor {a b : Bytes} (h : a.length = b.length) (c d : Word) :
    (List.zipWith (· ^^^ ·) a b).foldl crcByte (c ^^^ d) = a.foldl crcByte c ^^^ b.foldl crcByte d := by
  induction a generalizing b c d with
  | nil =>
    obtain rfl : b = [] := List.length_eq_zero_iff.mp h.symm
    rfl
  | cons x a ih =>
    cases b with
    | nil => contradiction
    | cons y b =>
      rw [List.zipWith_cons_cons, List.foldl_cons, crcByte_xor, ih (Nat.succ.inj h)]
      rfl

theorem crc16_zeros (n : Nat) : crc16 (List.replicate n 0) = 0 := by
  induction n with
  | zero => rfl
  | succ n ih =>
    rw [List.replicate_succ', crc16_append, ih]
    exact crcByte_zero

/-- Settles O23. -/
theorem crcIsLinear : Obligations.CrcIsLinear := by
  refine ⟨fun a b h => foldl_crcByte_xor h 0 0, fun n m => ?_⟩
  rw [crc16_append, crc16_zeros]
  rfl

/-- Where no bit reaches bit 15 the division only shifts. -/
theorem crcBits_of_small {n : Nat} {c : Word} (h : c.toNat * 2 ^ n < 2 ^ 16) : crcBits n c = c <<< n := by
  induction n generalizing c with
  | zero => exact (BitVec.shiftLeft_zero c).symm
  | succ n ih =>
    have hpow : c.toNat * 2 ≤ c.toNat * 2 ^ (n + 1) :=
      Nat.mul_le_mul_left _ (Nat.le_self_pow (Nat.succ_ne_zero n) 2)
    have hshift : (c <<< 1).toNat = c.toNat * 2 := by
      rw [BitVec.toNat_shiftLeft, Nat.shiftLeft_eq, Nat.mod_eq_of_lt (by omega)]
    have htop : c.getLsbD 15 = false := by
      rw [BitVec.getLsbD, Nat.testBit_lt_two_pow (by omega)]
    have hbit : crcBit c = c <<< 1 := by rw [crcBit, htop]; rfl
    rw [crcBits, hbit, ih (by rw [hshift, Nat.mul_assoc, ← Nat.pow_succ']; exact h), ← BitVec.shiftLeft_add, Nat.add_comm]

/-- The high byte of a register, entered at its top, leaves the low byte there. -/
theorem crcByte_hi8 (c : Word) : crcByte c (hi8 c) = (lo8 c).setWidth 16 <<< 8 := by
  have hxor : c ^^^ ((hi8 c).setWidth 16 <<< 8) = (lo8 c).setWidth 16 := by
    apply BitVec.eq_of_getLsbD_eq
    intro i hi
    simp only [hi8, lo8, BitVec.getLsbD_xor, BitVec.getLsbD_shiftLeft, BitVec.getLsbD_setWidth,
      BitVec.getLsbD_ushiftRight]
    by_cases h8 : i < 8
    · simp [h8, hi]
    · have hi' : 8 + (i - 8) = i := by omega
      simp [h8, hi, hi', show i - 8 < 8 by omega, show i - 8 < 16 by omega]
  rw [crcByte, hxor, crcBits_of_small]
  have := (lo8 c).isLt
  rw [BitVec.toNat_setWidth]
  omega

/-- Settles O24: the high byte of the CRC leaves its low byte at the top of the register, and the low byte clears it. -/
theorem crcResidueIsZero : Obligations.CrcResidueIsZero := by
  intro m
  rw [crc16_append, List.foldl_cons, List.foldl_cons, List.foldl_nil, crcByte_hi8, crcByte, BitVec.xor_self]
  exact crcBits_of_small (by decide)

end Sys2Proof.Proofs


/-! ## The UART byte stream (spec/42_uart_stream.md) -/

namespace Sys2Proof.Proofs

open Sys2Proof.Machine Sys2Proof.Safety

/-- Settles O25. -/
theorem uartSettoStores : Obligations.UartSettoStores :=
  fun _ t hb hnum hden => exec_returns rfl hb ((durationAdmitted_iff t).mpr ⟨hnum, hden⟩) rfl

/-- Settles O26. -/
theorem uartWrAppends : Obligations.UartWrAppends := by
  intro s m hb hok
  exact exec_returns rfl hb rfl (by rw [runOf, uartWrite_ok hok, result_done])

/-- Settles O27: the channel lets `min k m.length` bytes through. -/
theorem uartWrFails : Obligations.UartWrFails := by
  intro s m k hb hf hm
  have hrun := congrArg (result fun _ => .none) (uartWrite_fail hf hm)
  exact ⟨min k m.length, Nat.min_le_right _ _, Nat.min_eq_left, exec_raises (i := .uartWr m) rfl hb rfl hrun⟩

/-- R113: UART.RD on a channel that does not fail, or of no byte. -/
theorem exec_uartRd_ok {s : State} {n : Nat} (hb : s.busy = false) (hok : (readChoice 0 n s).fail = false ∨ n = 0) :
    exec (.uartRd n) s = .next (succeeded (.bytes (got n s.rxq (readChoice 0 n s)))
      { s with rxq := left n s.rxq (readChoice 0 n s), reads := s.reads.tail, free := s.free + 1 }) :=
  exec_returns rfl hb rfl (by rw [runOf, uartRead_ok hok, result_done])

/-- R114: a read of what is queued returns it, whatever arrives. -/
theorem got_of_queued (out rest : Bytes) (d : ReadDraw) : got out.length (out ++ rest) d = out := by
  rw [got, List.append_assoc, List.take_left]

theorem left_of_queued (out rest : Bytes) (d : ReadDraw) :
    left out.length (out ++ rest) d = rest ++ (d.inTime ++ d.late) := by
  rw [left, List.append_assoc, List.drop_left, List.append_assoc]

/-- Settles O28. -/
theorem uartRdReturns : Obligations.UartRdReturns := by
  refine ⟨fun s n => exec_uartRd_ok, fun s out rest hb hq hok => ⟨_, exec_uartRd_ok hb (.inl hok), ?_, ?_⟩⟩
  · rw [hq, got_of_queued]
    rfl
  · rw [hq, left_of_queued]
    exact List.prefix_append _ _

/-- Settles O29. -/
theorem uartRdFails : Obligations.UartRdFails := by
  intro s n hb hf hn
  have hrun := congrArg (result .bytes) (uartRead_fail hf hn)
  exact exec_raises (i := .uartRd n) rfl hb rfl hrun

end Sys2Proof.Proofs

/-! ## The host's port: reset, requests, refusals and reads -/

namespace Sys2Proof.Proofs

open Sys2Proof.Machine Sys2Proof.Safety

/-- Settles O1: each register is read off the state after reset. -/
theorem resetRegisters : Obligations.ResetRegisters :=
  ⟨rfl, rfl, rfl, rfl, rfl, rfl, rfl, rfl, rfl, rfl, rfl, rfl, rfl, rfl, rfl, rfl, rfl, rfl⟩

/-- R116: what the environment does between two steps, in the claims' words. -/
theorem arrive_eq (s : State) :
    arrive s = { s with rxq := s.rxq ++ arrivalChoice s, arrivals := s.arrivals.tail, free := s.free + 1 } := by
  rw [arrive, nextArrival_eq]

/-- R52: a step with a request waiting runs it after the arrival. -/
theorem step_of_request {s : State} {request : Bytes} {rest : List Bytes} (h : s.moves = request :: rest) :
    step s = runRequest request { arrive s with moves := rest } := by
  rw [step, arrive_moves, h]

/-- R190: a step with no request waiting lets bytes arrive. -/
theorem step_of_no_request {s : State} (h : s.moves = []) : step s = .next (arrive s) := by
  rw [step, arrive_moves, h]

/-- Settles O4. -/
theorem stepRunsDecodedInstruction : Obligations.StepRunsDecodedInstruction := by
  intro s i request rest hmoves hdecode
  rw [step_of_request hmoves, runRequest, hdecode, arrive_eq]

/-- Settles O5. -/
theorem stepWithoutInstruction : Obligations.StepWithoutInstruction := by
  refine ⟨fun s hmoves => ?_, fun s e request rest hmoves hdecode => ?_⟩
  · rw [step_of_no_request hmoves, arrive_eq]
  · rw [step_of_request hmoves, runRequest, hdecode, arrive_eq]
    rfl

/-- Settles O8. -/
theorem reservedIsRefused : Obligations.ReservedIsRefused := fun _ => rfl

/-- Settles O9. -/
theorem requestWhileBusyIsRefused : Obligations.RequestWhileBusyIsRefused :=
  fun _ _ hi hb => exec_busy hi hb

/-- R76: an operand that cannot be expressed is refused, in a request to an idle block and in a row of incoming bytes. -/
theorem exec_unfit {i : Instr} {s : State} (hb : s.busy = true → invokesBlock i = false) (hw : i.wellFormed = false) :
    exec i s = .next (refuse .operandOutOfType s) := by
  cases hi : invokesBlock i with
  | true =>
    have hidle : s.busy = false := by
      cases hs : s.busy with
      | false => rfl
      | true => exact absurd (hb hs) (by rw [hi]; decide)
    rw [exec_invokes hi, hw, invoke, hidle]
    rfl
  | false =>
    have hr : i ≠ .reserved := by
      rintro rfl
      contradiction
    rw [exec_delivers hi hr, hw]
    rfl

/-- Settles O10. -/
theorem unfitOperandIsRefused : Obligations.UnfitOperandIsRefused := by
  refine ⟨fun _ => rfl, fun _ _ => rfl, fun t => ?_, fun i s => exec_unfit⟩
  exact (Bool.decide_and _ _).symm

/-- R63: the bytes of a reply frame, as the claims list them. -/
theorem replyFrame_eq (body : Bytes) (f0 f1 : Byte) :
    replyFrame Config.key body f0 f1 =
      [0xAB, 0xCD, BitVec.ofNat 8 body.length, 0x00] ++ onLine body ++ [f0, f1, 0xDC, 0xBA] := by
  rw [replyFrame, List.append_assoc, ← onLine_eq]
  rfl

/-- Log 3: a row of incoming bytes that are of its form puts its frame on the line. -/
theorem exec_incoming {i : Instr} (hi : invokesBlock i = false) (hr : i ≠ .reserved) (hw : i.wellFormed = true)
    (s : State) : exec i s = .next { s with rxq := s.rxq ++ frameOf i } := by
  rw [exec_delivers hi hr, hw]
  rfl

/-- Settles O35: each of the four rows delivers the reply frame of its body. -/
theorem replyRowsReachTheQueue : Obligations.ReplyRowsReachTheQueue := by
  refine ⟨fun s body f0 f1 h => ?_, fun s body f0 f1 h => ?_, fun s head data f0 f1 h => ?_,
    fun s m1 m2 m3 offset tail f0 f1 h => ?_⟩
  · rw [exec_incoming rfl (by simp) (by exact (bodyFits_iff body).mpr h), frameOf, replyFrame_eq]
  · rw [exec_incoming rfl (by simp) (by exact (bodyFits_iff body).mpr h), frameOf, replyFrame_eq]
  · rw [exec_incoming rfl (by simp) (by exact (replyReadFits_iff head data).mpr h), frameOf, replyFrame_eq,
      List.length_append]
  · have hbody : ackBody Config.params [m1, m2, m3] offset tail =
        [Config.ackWrite, m1, m2, m3, lo8 offset, hi8 offset] ++ tail := rfl
    have hlen : ([Config.ackWrite, m1, m2, m3, lo8 offset, hi8 offset] ++ tail).length = 6 + tail.length :=
      List.length_append
    rw [exec_incoming rfl (by simp) (by exact (replyAckFits_iff _ tail).mpr ⟨rfl, h⟩), frameOf, hbody, replyFrame_eq,
      hlen]

/-- R30: a read of `FWSTR` below `FWLEN` gives the byte there. -/
theorem hostRead_fwstr {s : State} (hb : s.busy = false) {i : Nat} (hi : i < 18) (hlt : i < s.fwlen.toNat) :
    hostRead (.fwstr i) s = .byte s.fwstr[i] := by
  rw [hostRead, hb, Vector.getElem?_eq_getElem hi]
  simp [hlt]

/-- R30: a read of `FWSTR` at or above `FWLEN` gives nothing. -/
theorem hostRead_fwstr_beyond {s : State} (hb : s.busy = false) {i : Nat} (hle : s.fwlen.toNat ≤ i) :
    hostRead (.fwstr i) s = .refused .noValue := by
  rw [hostRead, hb]
  cases hget : s.fwstr[i]? with
  | none => rfl
  | some b => simp [Nat.not_lt.mpr hle]

/-- R29: a read while the block is busy is refused. -/
theorem hostRead_of_busy {r : HostReg} {s : State} (hb : s.busy = true) : hostRead r s = .refused .busy := by
  unfold hostRead
  rw [if_pos hb]

/-- Settles O60. -/
theorem hostReadsReportRegisters : Obligations.HostReadsReportRegisters := by
  refine ⟨fun s hb => ⟨?_, ?_, ?_, ?_, fun i => hostRead_fwstr hb, fun i => hostRead_fwstr_beyond hb⟩,
    fun r s => hostRead_of_busy⟩
  all_goals
    rw [hostRead, hb]
    rfl

end Sys2Proof.Proofs


/-! ## The frame and SEND (spec/43_frame_tx.md), DECODE (spec/44_frame_rx.md section 1) -/

namespace Sys2Proof.Proofs

open Sys2Proof.Machine Sys2Proof.Safety

/-! ### The command frame, position by position -/

/-- R61: the payload of the frame and its footer. -/
theorem encodeFrame_getElem?_add_four (key : Vector Byte 16) (body : Bytes) (i : Nat) :
    (encodeFrame key body)[4 + i]? = (obf key (body ++ le16 (crc16 body)) ++ footerMagic)[i]? := by
  rw [encodeFrame, List.append_assoc, List.getElem?_append_right (by simp [frameHeader])]
  simp [frameHeader]

theorem payload_length (key : Vector Byte 16) (body : Bytes) :
    (obf key (body ++ le16 (crc16 body))).length = body.length + 2 := by
  simp [le16]

/-- R61, R90: a byte of the body in the frame. -/
theorem encodeFrame_getElem?_body (key : Vector Byte 16) (body : Bytes) {i : Nat} (h : i < body.length) :
    (encodeFrame key body)[4 + i]? = some (body[i] ^^^ keyAt key i) := by
  rw [encodeFrame_getElem?_add_four, List.getElem?_append_left (by rw [payload_length]; omega), obf_getElem?,
    List.getElem?_append_left h, List.getElem?_eq_getElem h]
  rfl

/-- R61, R90: a byte of the CRC in the frame. -/
theorem encodeFrame_getElem?_crc (key : Vector Byte 16) (body : Bytes) {i : Nat} (h : i < 2) :
    (encodeFrame key body)[4 + (body.length + i)]? =
      ((le16 (crc16 body))[i]?).map fun b => b ^^^ keyAt key (body.length + i) := by
  rw [encodeFrame_getElem?_add_four, List.getElem?_append_left (by rw [payload_length]; omega), obf_getElem?,
    List.getElem?_append_right (by omega), Nat.add_sub_cancel_left]

/-- R61: a byte of the footer magic in the frame. -/
theorem encodeFrame_getElem?_footer (key : Vector Byte 16) (body : Bytes) (i : Nat) :
    (encodeFrame key body)[4 + (body.length + 2 + i)]? = footerMagic[i]? := by
  rw [encodeFrame_getElem?_add_four, List.getElem?_append_right (by rw [payload_length]; omega), payload_length,
    Nat.add_sub_cancel_left]

/-- Settles O31: the frame is its header, the obfuscated body and CRC, and the footer magic, one after the other. -/
theorem commandFrameLayout : Obligations.CommandFrameLayout := by
  intro key body h
  have hcrc0 := encodeFrame_getElem?_crc key body (i := 0) (by decide)
  have hcrc1 := encodeFrame_getElem?_crc key body (i := 1) (by decide)
  have hftr0 := encodeFrame_getElem?_footer key body 0
  have hftr1 := encodeFrame_getElem?_footer key body 1
  refine ⟨by simp [encodeFrame, frameHeader, footerMagic, le16], rfl, rfl, ⟨_, ofNat_length_toNat h, rfl⟩, rfl,
    fun i hi => encodeFrame_getElem?_body key body hi, hcrc0, ?_, ?_, ?_⟩
  · rw [show 5 + body.length = 4 + (body.length + 1) by omega, hcrc1]
    rfl
  · rw [show 6 + body.length = 4 + (body.length + 2 + 0) by omega, hftr0]
    rfl
  · rw [show 7 + body.length = 4 + (body.length + 2 + 1) by omega, hftr1]
    rfl

/-! ### SEND -/

/-- R121: an admitted SEND, or a row that is SEND of a body (log 3), on a channel that accepts the frame. -/
theorem exec_sends_accepted {i : Instr} {body : Bytes} {s : State} (h : SendsBody i body) (hb : s.busy = false)
    (hw : i.wellFormed = true) (ha : SendAccepted body s) :
    exec i s = .next (succeeded .none (afterSend body s)) := by
  refine exec_returns h.invokes hb hw ?_
  rw [h.run, sendRun, sendBody_ok ha, result_done]

/-- Settles O32. -/
theorem sendWritesFrame : Obligations.SendWritesFrame :=
  fun _ body hb hl ha => exec_sends_accepted (.send body) hb ((bodyFits_iff body).mpr hl) ha

/-- Settles O34: the five rows are SEND of their bodies. -/
theorem commandRowsAreSent : Obligations.CommandRowsAreSent :=
  ⟨fun _ body hb hl ha => exec_sends_accepted (.frameCmd body) hb ((bodyFits_iff body).mpr hl) ha,
    fun _ hb ha => exec_sends_accepted .bodyHello hb rfl ha,
    fun _ offset length hb ha => exec_sends_accepted (.bodyRead offset length) hb rfl ha,
    fun _ data offset hb hl ha => exec_sends_accepted (.bodyWrite data offset) hb ((writeDataFits_iff data).mpr hl) ha,
    fun _ hb ha => exec_sends_accepted .bodyReset hb rfl ha⟩

/-- Settles O33: the channel lets `min k (body.length + 8)` bytes of the frame through; error entry puts the transmitter
to idle from wherever it stopped. -/
theorem sendFailsAfterPrefix : Obligations.SendFailsAfterPrefix := by
  intro s body k hb hl hf
  have hrun := congrArg (result fun _ => .none) (sendBody_fail hf)
  exact ⟨min k (body.length + 8), Nat.min_le_right _ _, Nat.min_eq_left,
    exec_raises (i := .send body) rfl hb ((bodyFits_iff body).mpr hl) hrun⟩

/-! ### DECODE -/

theorem headerMagicOk_iff (h0 h1 : Byte) (rest : Bytes) :
    headerMagicOk (h0 :: h1 :: rest) = true ↔ h0 = 0xAB ∧ h1 = 0xCD := by
  rw [headerMagicOk, Bool.and_eq_true, beq_iff_eq, beq_iff_eq]
  rfl

theorem footerMagicOk_iff (f0 f1 f2 f3 : Byte) :
    footerMagicOk [f0, f1, f2, f3] = true ↔ f2 = 0xDC ∧ f3 = 0xBA := by
  rw [footerMagicOk, Bool.and_eq_true, beq_iff_eq, beq_iff_eq]
  rfl

/-- R130: `DECODE` of what has at least the four header bytes. -/
theorem decodeFrame_cons (key : Vector Byte 16) (h0 h1 n h3 : Byte) (rest : Bytes) :
    decodeFrame key (h0 :: h1 :: n :: h3 :: rest) =
      if rest.length = n.toNat + 4 ∧ (h0 = 0xAB ∧ h1 = 0xCD) ∧ h3 = 0x00 ∧ footerMagicOk (rest.drop n.toNat) = true then
        some (obf key (rest.take n.toNat))
      else none := by
  have hlen : (h0 :: h1 :: n :: h3 :: rest).length = n.toNat + 8 ↔ rest.length = n.toNat + 4 := by
    simp only [List.length_cons]
    omega
  simp only [← headerMagicOk_iff h0 h1 (n :: h3 :: rest), ← hlen]
  rfl

/-- R130: `DECODE` of a whole frame. -/
theorem decodeFrame_of_frame (key : Vector Byte 16) {n : Byte} {b : Bytes} (h : b.length = n.toNat) (f0 f1 : Byte) :
    decodeFrame key ([0xAB, 0xCD, n, 0x00] ++ b ++ [f0, f1, 0xDC, 0xBA]) = some (obf key b) := by
  have hlen : (b ++ [f0, f1, 0xDC, 0xBA]).length = n.toNat + 4 := by rw [List.length_append, h]; rfl
  rw [List.append_assoc]
  refine (decodeFrame_cons key 0xAB 0xCD n 0x00 (b ++ [f0, f1, 0xDC, 0xBA])).trans ?_
  rw [← h, List.drop_left, List.take_left, if_pos ⟨h ▸ hlen, ⟨rfl, rfl⟩, rfl, footerMagicOk_good f0 f1⟩]

/-- R130: what has a `DECODE` is a whole frame. -/
theorem frame_of_decodeFrame {key : Vector Byte 16} {w d : Bytes} (h : decodeFrame key w = some d) :
    ∃ (n : Byte) (b : Bytes) (f0 f1 : Byte), b.length = n.toNat ∧
      w = [0xAB, 0xCD, n, 0x00] ++ b ++ [f0, f1, 0xDC, 0xBA] ∧ d = obf key b := by
  have hlong : 4 ≤ w.length := by
    simp only [decodeFrame] at h
    split at h
    · rename_i hw
      omega
    · contradiction
  match w, hlong with
  | h0 :: h1 :: n :: h3 :: rest, _ =>
    rw [decodeFrame_cons] at h
    split at h
    · rename_i hw
      obtain ⟨hlen, ⟨rfl, rfl⟩, rfl, hftr⟩ := hw
      obtain ⟨f0, f1, f2, f3, hf⟩ := List.length_eq_four.mp (show (rest.drop n.toNat).length = 4 by rw [List.length_drop]; omega)
      rw [hf, footerMagicOk_iff] at hftr
      obtain ⟨rfl, rfl⟩ := hftr
      refine ⟨n, rest.take n.toNat, f0, f1, by rw [List.length_take]; omega, ?_, (Option.some.inj h).symm⟩
      rw [← hf, List.append_assoc, List.take_append_drop]
      rfl
    · contradiction

/-- R120, R130: the command frame as its header, the bytes of the body on the line, the two bytes of the CRC on the line, and
the footer magic. -/
theorem encodeFrame_eq (key : Vector Byte 16) (body : Bytes) :
    ∃ f0 f1, encodeFrame key body =
      [0xAB, 0xCD, BitVec.ofNat 8 body.length, 0x00] ++ obf key body ++ [f0, f1, 0xDC, 0xBA] := by
  refine ⟨lo8 (crc16 body) ^^^ keyAt key body.length, hi8 (crc16 body) ^^^ keyAt key (body.length + 1), ?_⟩
  have hpayload : obf key (body ++ le16 (crc16 body)) = obf key body ++
      [lo8 (crc16 body) ^^^ keyAt key body.length, hi8 (crc16 body) ^^^ keyAt key (body.length + 1)] := by
    simp [obf, le16, List.mapIdx_append, Nat.add_comm 1]
  rw [encodeFrame, hpayload]
  simp [frameHeader, footerMagic, len8, Config.hdrMagic0, Config.hdrMagic1, Config.hdrRsvd, Config.ftrMagic0,
    Config.ftrMagic1]

/-- Settles O43: the tests of `DECODE` are those of a whole frame, and the command frame is one whose body bytes are the
obfuscated body. -/
theorem decodeFrameOfEncodeFrame : Obligations.DecodeFrameOfEncodeFrame := by
  refine ⟨fun key w d => ⟨frame_of_decodeFrame, ?_⟩, fun key body hl => ?_⟩
  · rintro ⟨n, b, f0, f1, hlen, rfl, rfl⟩
    exact decodeFrame_of_frame key hlen f0 f1
  · obtain ⟨f0, f1, hframe⟩ := encodeFrame_eq key body
    have hlen : (obf key body).length = (BitVec.ofNat 8 body.length).toNat := by
      rw [obf_length, ofNat_length_toNat hl]
    rw [hframe, decodeFrame_of_frame key hlen, obf_obf]

end Sys2Proof.Proofs


/-! ## RECV's ends (spec/44_frame_rx.md section 2) -/

namespace Sys2Proof.Proofs

open Sys2Proof.Machine Sys2Proof.Safety

/-! ### A read that fails, or a check that fails, ends RECV -/

/-- Settles O36. -/
theorem recvReturnsBody : Obligations.RecvReturnsBody :=
  fun _ _ _ _ hb hline => exec_recv_lineGives hb hline

theorem recvBody_of_header {s t : State} {e : Raise} (h : recvHeader s = .raised e t) :
    recvBody Config.params s = .raised e t := by
  rw [recvBody, h, andThen_raised]

theorem recvBody_of_payload {s t : State} {len : Byte} {e : Raise} (hh : HeaderRead s [0xAB, 0xCD, len, 0x00])
    (h : recvPayload len.toNat (headerDone len s) = .raised e t) : recvBody Config.params s = .raised e t := by
  rw [recvBody, recvHeader_good hh, andThen_done, h, andThen_raised]

theorem recvBody_of_footer {s t : State} {len : Byte} {b : Bytes} {e : Raise}
    (hh : HeaderRead s [0xAB, 0xCD, len, 0x00]) (hbody : BodyRead s len.toNat b) (hlen : b.length = len.toNat)
    (h : recvFooter (bodyDone len b s) = .raised e t) : recvBody Config.params s = .raised e t := by
  have hpayload := recvPayload_read hbody
  rw [if_neg (by omega)] at hpayload
  rw [recvBody, recvHeader_good hh, andThen_done, hpayload, andThen_done, h, andThen_raised]

/-- R170: an error of RECV's part is the end of RECV. -/
theorem exec_recv_raises {s t : State} {e : Raise} (hb : s.busy = false)
    (h : recvBody Config.params s = .raised e t) :
    exec .recv s = .next (failed e.cls e.sub e.exp e.act e.off t) :=
  exec_raises rfl hb rfl (congrArg (result .bytes) h)

/-- Settles O38: the three checks of the header in the order of R131. -/
theorem recvRejectsHeader : Obligations.RecvRejectsHeader := by
  refine ⟨fun s h hb hh hshort => ?_, fun s h0 h1 h2 h3 hb hh hmagic => ?_, fun s h2 h3 hb hh hrsvd => ?_⟩
  · have hread := recvHeader_read hh
    rw [if_pos hshort] at hread
    exact exec_recv_raises hb (recvBody_of_header hread)
  · have hread := recvHeader_read hh
    rw [← headerMagicOk_iff h0 h1 [h2, h3], Bool.not_eq_true] at hmagic
    rw [if_neg (by simp), if_pos hmagic] at hread
    exact exec_recv_raises hb (recvBody_of_header hread)
  · have hread := recvHeader_read hh
    have hmagic : headerMagicOk [0xAB, 0xCD, h2, h3] = true := (headerMagicOk_iff _ _ _).mpr ⟨rfl, rfl⟩
    rw [if_neg (by simp), if_neg (by rw [hmagic]; decide), if_pos (by exact hrsvd)] at hread
    exact exec_recv_raises hb (recvBody_of_header hread)

/-- Settles O39: the check of the body and the two of the footer in the order of R131. -/
theorem recvRejectsBodyOrFooter : Obligations.RecvRejectsBodyOrFooter := by
  refine ⟨fun s len b hb hh hbody hshort => ?_, fun s len b f hb hh hbody hlen hf hshort => ?_,
    fun s len b f0 f1 f2 f3 hb hh hbody hlen hf hmagic => ?_⟩
  · have hread := recvPayload_read hbody
    rw [if_pos hshort] at hread
    exact exec_recv_raises hb (recvBody_of_payload hh hread)
  · have hread := recvFooter_read hlen hf
    rw [if_pos hshort] at hread
    exact exec_recv_raises hb (recvBody_of_footer hh hbody hlen hread)
  · have hread := recvFooter_read hlen hf
    rw [← footerMagicOk_iff f0 f1, Bool.not_eq_true] at hmagic
    rw [if_neg (by simp), if_pos hmagic, filled_four] at hread
    exact exec_recv_raises hb (recvBody_of_footer hh hbody hlen hread)

/-- Settles O40: silence is a read of no byte, which the checks reject; a channel that fails ends the read itself. -/
theorem silenceAndFailureDiffer : Obligations.SilenceAndFailureDiffer := by
  obtain ⟨hshortHeader, -, -⟩ := recvRejectsHeader
  obtain ⟨hshortBody, hshortFooter, -⟩ := recvRejectsBodyOrFooter
  refine ⟨fun s hb hh => ⟨_, hshortHeader s [] hb hh (by decide), rfl, rfl⟩,
    fun s len hb hh hne hbody => ⟨_, hshortBody s len [] hb hh hbody (show 0 < len.toNat by bv_omega), rfl, rfl⟩,
    fun s len b hb hh hbody hlen hf => ⟨_, hshortFooter s len b [] hb hh hbody hlen hf (by decide), rfl, rfl⟩,
    fun s hb hf => ?_, fun s len hb hh hne hf => ?_, fun s len b hb hh hbody hlen hf => ?_⟩
  · exact ⟨_, exec_recv_raises hb (recvBody_of_header (recvHeader_fail hf)), rfl, rfl, rfl, rfl⟩
  · have hread := recvPayload_fail hf (by bv_omega)
    exact ⟨_, exec_recv_raises hb (recvBody_of_payload hh hread), rfl, rfl, rfl, rfl⟩
  · exact ⟨_, exec_recv_raises hb (recvBody_of_footer hh hbody hlen (recvFooter_fail hf)), rfl, rfl, rfl, rfl⟩

/-! ### How many bytes RECV consumes -/

/-- What RECV meets on the line, one case for each of its ends (R131, R136). -/
inductive RecvMeets (s : State) : Prop where
  | readFails {e : Raise} {t : State} : recvBody Config.params s = .raised e t → e.sub = .readFail → RecvMeets s
  | shortHeader {h : Bytes} : HeaderRead s h → h.length < 4 → RecvMeets s
  | badMagic {h0 h1 h2 h3 : Byte} : HeaderRead s [h0, h1, h2, h3] → ¬(h0 = 0xAB ∧ h1 = 0xCD) → RecvMeets s
  | badReserved {h2 h3 : Byte} : HeaderRead s [0xAB, 0xCD, h2, h3] → h3 ≠ 0x00 → RecvMeets s
  | shortBody {len : Byte} {b : Bytes} : HeaderRead s [0xAB, 0xCD, len, 0x00] → BodyRead s len.toNat b →
      b.length < len.toNat → RecvMeets s
  | shortFooter {len : Byte} {b f : Bytes} : HeaderRead s [0xAB, 0xCD, len, 0x00] → BodyRead s len.toNat b →
      b.length = len.toNat → FooterRead s len.toNat f → f.length < 4 → RecvMeets s
  | badFooter {len : Byte} {b : Bytes} {f0 f1 f2 f3 : Byte} : HeaderRead s [0xAB, 0xCD, len, 0x00] →
      BodyRead s len.toNat b → b.length = len.toNat → FooterRead s len.toNat [f0, f1, f2, f3] →
      ¬(f2 = 0xDC ∧ f3 = 0xBA) → RecvMeets s
  | frame {b : Bytes} {f0 f1 : Byte} : LineGives s b f0 f1 → RecvMeets s

theorem lineGives_of_reads {s : State} {len : Byte} {b : Bytes} {f0 f1 : Byte}
    (hh : HeaderRead s [0xAB, 0xCD, len, 0x00]) (hbody : BodyRead s len.toNat b) (hlen : b.length = len.toNat)
    (hf : FooterRead s len.toNat [f0, f1, 0xDC, 0xBA]) : LineGives s b f0 f1 := by
  have hlt := len.isLt
  have hlen8 : BitVec.ofNat 8 b.length = len := by rw [hlen, BitVec.ofNat_toNat, BitVec.setWidth_eq]
  exact ⟨by omega, hlen8.symm ▸ hh, hlen.symm ▸ hbody, hlen.symm ▸ hf⟩

theorem headerRead_length {s : State} {h : Bytes} (hh : HeaderRead s h) : h.length ≤ 4 := by
  obtain ⟨-, rfl⟩ := hh
  exact got_length 4 _ _

theorem footerRead_length {s : State} {n : Nat} {f : Bytes} (hf : FooterRead s n f) : f.length ≤ 4 := by
  obtain ⟨-, rfl⟩ := hf
  exact got_length 4 _ _

theorem bodyRead_length {s : State} {n : Nat} {b : Bytes} (hbody : BodyRead s n b) : b.length ≤ n := by
  obtain ⟨-, rfl⟩ := hbody
  exact got_length n _ _

/-- After a good header and the whole body. -/
theorem recvMeets_footer {s : State} {len : Byte} {b : Bytes} (hh : HeaderRead s [0xAB, 0xCD, len, 0x00])
    (hbody : BodyRead s len.toNat b) (hlen : b.length = len.toNat) : RecvMeets s := by
  rcases footerRead_or_fails len.toNat s with hfail | ⟨f, hf⟩
  · exact .readFails (recvBody_of_footer hh hbody hlen (recvFooter_fail hfail)) rfl
  · rcases Nat.lt_or_ge f.length 4 with hshort | hfour
    · exact .shortFooter hh hbody hlen hf hshort
    · obtain ⟨f0, f1, f2, f3, rfl⟩ := List.length_eq_four.mp (Nat.le_antisymm (footerRead_length hf) hfour)
      by_cases hmagic : f2 = 0xDC ∧ f3 = 0xBA
      · obtain ⟨rfl, rfl⟩ := hmagic
        exact .frame (lineGives_of_reads hh hbody hlen hf)
      · exact .badFooter hh hbody hlen hf hmagic

/-- After a good header. -/
theorem recvMeets_body {s : State} {len : Byte} (hh : HeaderRead s [0xAB, 0xCD, len, 0x00]) : RecvMeets s := by
  rcases bodyRead_or_fails len.toNat s with ⟨hfail, hne⟩ | ⟨b, hbody⟩
  · exact .readFails (recvBody_of_payload hh (recvPayload_fail hfail hne)) rfl
  · rcases Nat.lt_or_ge b.length len.toNat with hshort | hwhole
    · exact .shortBody hh hbody hshort
    · exact recvMeets_footer hh hbody (Nat.le_antisymm (bodyRead_length hbody) hwhole)

theorem recvMeets (s : State) : RecvMeets s := by
  rcases headerRead_or_fails s with hfail | ⟨h, hh⟩
  · exact .readFails (recvBody_of_header (recvHeader_fail hfail)) rfl
  · rcases Nat.lt_or_ge h.length 4 with hshort | hfour
    · exact .shortHeader hh hshort
    · obtain ⟨h0, h1, h2, h3, rfl⟩ := List.length_eq_four.mp (Nat.le_antisymm (headerRead_length hh) hfour)
      by_cases hmagic : h0 = 0xAB ∧ h1 = 0xCD
      · obtain ⟨rfl, rfl⟩ := hmagic
        by_cases hrsvd : h3 = 0x00
        · subst hrsvd
          exact recvMeets_body hh
        · exact .badReserved hh hrsvd
      · exact .badMagic hh hmagic

/-- R113: one more read takes further bytes and leaves the rest in order. -/
theorem read_consumed {before arrived taken q : Bytes} (h : before ++ arrived = taken ++ q) (n : Nat) (d : ReadDraw) :
    before ++ (arrived ++ d.inTime ++ d.late) = (taken ++ got n q d) ++ left n q d := by
  calc before ++ (arrived ++ d.inTime ++ d.late)
      = (before ++ arrived) ++ d.inTime ++ d.late := by simp only [List.append_assoc]
    _ = taken ++ (q ++ d.inTime ++ d.late) := by simp only [h, List.append_assoc]
    _ = (taken ++ got n q d) ++ left n q d := by rw [← got_append_left n q d, List.append_assoc]

theorem header_consumed {s : State} {h : Bytes} (hh : HeaderRead s h) :
    s.rxq ++ arrivedInHeader s = h ++ leftAfterHeader s := by
  obtain ⟨-, rfl⟩ := hh
  exact read_consumed (arrived := []) (taken := []) (List.append_nil s.rxq) 4 _

theorem body_consumed {s : State} {h b : Bytes} {n : Nat} (hh : HeaderRead s h) (hbody : BodyRead s n b) :
    s.rxq ++ arrivedInBody n s = (h ++ b) ++ leftAfterBody n s := by
  obtain ⟨-, rfl⟩ := hbody
  exact read_consumed (header_consumed hh) n _

theorem footer_consumed {s : State} {h b f : Bytes} {n : Nat} (hh : HeaderRead s h) (hbody : BodyRead s n b)
    (hf : FooterRead s n f) : s.rxq ++ arrivedInFooter n s = (h ++ b ++ f) ++ leftAfterFooter n s := by
  obtain ⟨-, rfl⟩ := hf
  exact read_consumed (body_consumed hh hbody) 4 _

/-- Settles O41: in each case RECV's end is known, and the reads it made have taken the bytes counted. -/
theorem recvConsumptionTable : Obligations.RecvConsumptionTable := by
  intro s t hb h
  obtain ⟨hshortHeader, hbadMagic, hbadReserved⟩ := recvRejectsHeader
  obtain ⟨hshortBody, hshortFooter, hbadFooter⟩ := recvRejectsBodyOrFooter
  cases recvMeets s with
  | readFails hrecv hsub =>
    cases (exec_recv_raises hb hrecv).symm.trans h
    simp only [failed, hsub]
  | shortHeader hh hshort =>
    cases (hshortHeader s _ hb hh hshort).symm.trans h
    exact ⟨_, header_consumed hh, rfl, hshort⟩
  | badMagic hh hmagic =>
    cases (hbadMagic s _ _ _ _ hb hh hmagic).symm.trans h
    exact ⟨_, header_consumed hh, rfl⟩
  | badReserved hh hrsvd =>
    cases (hbadReserved s _ _ hb hh hrsvd).symm.trans h
    exact ⟨_, header_consumed hh, rfl⟩
  | shortBody hh hbody hshort =>
    cases (hshortBody s _ _ hb hh hbody hshort).symm.trans h
    exact ⟨_, body_consumed hh hbody, by rw [List.length_append]; rfl, hshort⟩
  | @shortFooter len b f hh hbody hlen hf hshort =>
    cases (hshortFooter s _ _ _ hb hh hbody hlen hf hshort).symm.trans h
    refine ⟨_, footer_consumed hh hbody hf, ?_, hshort⟩
    rw [List.length_append, List.length_append, hlen]
    rfl
  | @badFooter len b f0 f1 f2 f3 hh hbody hlen hf hmagic =>
    cases (hbadFooter s _ _ _ _ _ _ hb hh hbody hlen hf hmagic).symm.trans h
    refine ⟨_, footer_consumed hh hbody hf, ?_⟩
    show ([0xAB, 0xCD, len, 0x00] ++ b ++ [f0, f1, f2, f3]).length = 8 + len.toNat
    simp only [List.length_append, List.length_cons, List.length_nil]
    omega
  | @frame b f0 f1 hline =>
    cases (recvReturnsBody s b f0 f1 hb hline).symm.trans h
    show ∃ consumed, s.rxq ++ arrivedInFooter (BitVec.ofNat 8 b.length).toNat s = consumed ++ leftAfterFooter b.length s ∧
      consumed.length = 8 + (BitVec.ofNat 8 b.length).toNat
    rw [ofNat_length_toNat hline.size]
    refine ⟨_, footer_consumed hline.header hline.body hline.footer, ?_⟩
    simp only [List.length_append, List.length_cons, List.length_nil]
    omega

/-! ### RECV of a frame that is queued -/

/-- R114, R124: where a whole frame is queued and no read fails, the line gives it, and what follows it stays queued. -/
theorem lineGives_of_queued {s : State} {b rest : Bytes} {f0 f1 : Byte} (hsize : b.length ≤ 255)
    (hq : s.rxq = [0xAB, 0xCD, BitVec.ofNat 8 b.length, 0x00] ++ (b ++ ([f0, f1, 0xDC, 0xBA] ++ rest)))
    (h0 : (readChoice 0 4 s).fail = false) (h1 : (readChoice 1 b.length s).fail = false)
    (h2 : (readChoice 2 4 s).fail = false) :
    LineGives s b f0 f1 ∧ rest <+: leftAfterFooter b.length s := by
  have hheader : leftAfterHeader s =
      b ++ ([f0, f1, 0xDC, 0xBA] ++ (rest ++ ((readChoice 0 4 s).inTime ++ (readChoice 0 4 s).late))) := by
    rw [leftAfterHeader, hq]
    exact (left_of_queued [0xAB, 0xCD, BitVec.ofNat 8 b.length, 0x00] _ _).trans (by simp only [List.append_assoc])
  have hbody : leftAfterBody b.length s =
      [f0, f1, 0xDC, 0xBA] ++ (rest ++ ((readChoice 0 4 s).inTime ++ (readChoice 0 4 s).late) ++
        ((readChoice 1 b.length s).inTime ++ (readChoice 1 b.length s).late)) := by
    rw [leftAfterBody, hheader, left_of_queued, List.append_assoc]
  refine ⟨⟨hsize, ⟨h0, ?_⟩, ⟨.inl h1, ?_⟩, ⟨h2, ?_⟩⟩, ?_⟩
  · rw [hq]
    exact got_of_queued [0xAB, 0xCD, BitVec.ofNat 8 b.length, 0x00] _ _
  · rw [hheader, got_of_queued]
  · rw [hbody]
    exact got_of_queued [f0, f1, 0xDC, 0xBA] _ _
  · rw [leftAfterFooter, hbody]
    refine List.IsPrefix.trans ?_ (left_of_queued [f0, f1, 0xDC, 0xBA] _ _ ▸ List.prefix_append _ _)
    rw [List.append_assoc]
    exact List.prefix_append _ _

/-- Settles O42: the command frame is a frame whose body bytes on the line are the obfuscated body, and RECV takes the
obfuscation off again. -/
theorem recvOfSentFrameReturnsBody : Obligations.RecvOfSentFrameReturnsBody := by
  intro s body rest hb hl hq h0 h1 h2
  obtain ⟨f0, f1, hframe⟩ := encodeFrame_eq Config.key body
  rw [← onLine_eq] at hframe
  have hlen : (onLine body).length = body.length := onLine_length body
  rw [hframe, ← hlen, List.append_assoc, List.append_assoc] at hq
  rw [← hlen] at h1 hl
  obtain ⟨hline, hrest⟩ := lineGives_of_queued hl hq h0 h1 h2
  refine ⟨_, exec_recv_lineGives hb hline, ?_, rfl, hrest⟩
  rw [onLine_onLine]
  rfl

end Sys2Proof.Proofs


/-! ## HANDSHAKE, READ_BLOCK and WRITE_BLOCK (spec/45_commands.md) -/

namespace Sys2Proof.Proofs

open Sys2Proof.Machine Sys2Proof.Safety

/-- An operation that answers that it raised has a part that raised. -/
theorem raised_of_exec {α : Type} {i : Instr} {s t : State} {mk : α → Result} {r : Ran α}
    (hi : invokesBlock i = true) (hb : s.busy = false) (hw : i.wellFormed = true) (hrun : runOf i s = result mk r)
    (h : exec i s = .next t) (hraised : t.resp = .raised) : ∃ e v, r = .raised e v ∧ t = raiseOp e v := by
  rw [exec_runs hi hb hw, hrun] at h
  cases r with
  | done a v =>
    cases h
    contradiction
  | raised e v =>
    cases h
    exact ⟨e, v, rfl, rfl⟩

theorem sendBody_raised_of_exec {body : Bytes} {s t : State} (hb : s.busy = false) (hl : body.length ≤ 255)
    (h : exec (.send body) s = .next t) (hraised : t.resp = .raised) :
    ∃ e v, sendBody Config.params body s = .raised e v ∧ t = raiseOp e v :=
  raised_of_exec (i := .send body) rfl hb ((bodyFits_iff body).mpr hl) rfl h hraised

theorem recvBody_raised_of_exec {s t : State} (hb : s.busy = false) (h : exec .recv s = .next t)
    (hraised : t.resp = .raised) : ∃ e v, recvBody Config.params s = .raised e v ∧ t = raiseOp e v :=
  raised_of_exec rfl hb rfl rfl h hraised

/-! ### HANDSHAKE -/

/-- R141: what empty replies leave: `TRIES` counts them, the firmware string stands, and the block is no busier. -/
theorem emptyReplies_keeps {k n : Nat} {s t : State} (h : EmptyReplies k n s t) (htries : s.tries = BitVec.ofNat 3 n) :
    t.busy = s.busy ∧ t.fwstr = s.fwstr ∧ t.tries = BitVec.ofNat 3 (n - k) := by
  induction k generalizing n s with
  | zero =>
    cases h
    exact ⟨rfl, rfl, htries⟩
  | succ k ih =>
    obtain ⟨f0, f1, -, hrest⟩ := h
    obtain ⟨hbusy, hfwstr, hcount⟩ := ih hrest rfl
    exact ⟨hbusy, hfwstr, by rw [hcount, Nat.sub_sub, Nat.add_comm 1]⟩

section Handshake

variable {s u : State} {k : Nat} (hk : k ≤ 4) (hempty : EmptyReplies k 5 { s with tries := 5 } u)

include hk hempty

/-- R141: after empty replies HANDSHAKE goes on with an attempt in the state they leave. -/
theorem handshakeBody_of_emptyReplies :
    handshakeBody Config.params s = andThen (helloLoop Config.params (4 - k + 1) u) commitFw := by
  have hloop := helloLoop_empty (by omega : k ≤ 5) hempty
  rw [show 5 - k = 4 - k + 1 by omega] at hloop
  exact congrArg (andThen · commitFw) hloop

/-- R140: the first reply that is not empty is the one whose firmware string counts. -/
theorem handshakeBody_of_reply {r : Bytes} {f0 f1 : Byte} (hx : Exchange Config.params.helloBody r f0 f1 u)
    (hr : r ≠ []) :
    handshakeBody Config.params s = commitFw r (afterExchange Config.params.helloBody r f0 f1 u) := by
  rw [handshakeBody_of_emptyReplies hk hempty, helloLoop_reply hx hr, andThen_done]

/-- R141: an error of SEND in any attempt is HANDSHAKE's. -/
theorem handshakeBody_of_send_raised {e : Raise} {v : State}
    (h : sendBody Config.params Config.params.helloBody u = .raised e v) :
    handshakeBody Config.params s = .raised e v := by
  rw [handshakeBody_of_emptyReplies hk hempty, helloLoop, h, andThen_raised, andThen_raised]

/-- R141: an error of RECV in any attempt is HANDSHAKE's. -/
theorem handshakeBody_of_recv_raised {e : Raise} {v : State} (ha : SendAccepted Config.params.helloBody u)
    (h : recvBody Config.params (afterSend Config.params.helloBody u) = .raised e v) :
    handshakeBody Config.params s = .raised e v := by
  rw [handshakeBody_of_emptyReplies hk hempty, helloLoop, sendBody_ok ha, andThen_done, h, andThen_raised, andThen_raised]

end Handshake

/-- R140: a reply with a firmware string is committed. -/
theorem commitFw_of_ne_nil {r : Bytes} (h : fwExtract r ≠ []) (s : State) :
    commitFw r s = .done (fwExtract r)
      { s with fwstr := filled s.fwstr (fwExtract r), fwlen := BitVec.ofNat 5 (fwExtract r).length } := by
  obtain ⟨b, rest, hfw⟩ := List.exists_cons_of_ne_nil h
  rw [← overwrite_eq_filled, commitFw, hfw]

/-- Settles O45: the reply is committed over the firmware string as it was before HANDSHAKE, and `TRIES` is what the
empty replies left. -/
theorem handshakeReturnsFirmwareString : Obligations.HandshakeReturnsFirmwareString := by
  intro s u k r f0 f1 hb hk hempty hx hr hfw
  obtain ⟨-, hfwstr, htries⟩ := emptyReplies_keeps hempty rfl
  have hbody := handshakeBody_of_reply hk hempty hx hr
  rw [commitFw_of_ne_nil hfw] at hbody
  rw [← htries, show s.fwstr = u.fwstr from hfwstr.symm]
  exact exec_returns rfl hb rfl (congrArg (result .bytes) hbody)

/-- Settles O46. -/
theorem handshakeRejectsEmptyString : Obligations.HandshakeRejectsEmptyString := by
  intro s u k r f0 f1 hb hk hempty hx hr hfw
  have hbody := handshakeBody_of_reply hk hempty hx hr
  rw [commitFw_of_empty hfw] at hbody
  exact exec_raises (i := .handshake) rfl hb rfl (congrArg (result .bytes) hbody)

/-- Settles O47: five empty replies leave no attempt. -/
theorem handshakeGivesUpAfterFive : Obligations.HandshakeGivesUpAfterFive := by
  intro s u hb hempty
  have hbody : handshakeBody Config.params s = andThen (helloLoop Config.params 0 u) commitFw :=
    congrArg (andThen · commitFw) (helloLoop_empty (Nat.le_refl 5) hempty)
  exact exec_raises (i := .handshake) rfl hb rfl (congrArg (result .bytes) hbody)

/-- Settles O48: what SEND or RECV raises in the attempt is what HANDSHAKE raises, in the same state. -/
theorem handshakeDoesNotRetryErrors : Obligations.HandshakeDoesNotRetryErrors := by
  refine ⟨fun s u t k hb hk hempty h hraised => ?_, fun s u t k hb hk hempty ha h hraised => ?_⟩
  · have hbu : u.busy = false := (emptyReplies_keeps hempty rfl).1.trans hb
    obtain ⟨e, v, hsend, rfl⟩ := sendBody_raised_of_exec hbu params_wf.1 h hraised
    exact exec_raises rfl hb rfl (congrArg (result .bytes) (handshakeBody_of_send_raised hk hempty hsend))
  · have hbu : u.busy = false := (emptyReplies_keeps hempty rfl).1.trans hb
    obtain ⟨e, v, hrecv, rfl⟩ := recvBody_raised_of_exec (s := afterSend Config.params.helloBody u) hbu h hraised
    exact exec_raises rfl hb rfl (congrArg (result .bytes) (handshakeBody_of_recv_raised hk hempty ha hrecv))

/-! ### READ_BLOCK -/

/-- R143: READ_BLOCK after an exchange is its check of the reply. -/
theorem readBlockBody_of_exchange {offset : Word} {length : Byte} {r : Bytes} {f0 f1 : Byte} {s : State}
    (h : Exchange (readCommand offset length) r f0 f1 s) :
    readBlockBody Config.params offset length s =
      addOff offset (checkRead length r (afterExchange (readCommand offset length) r f0 f1 s)) := by
  obtain ⟨hsend, hrecv⟩ := exchange_ok h
  rw [readBlockBody, readBody_eq, hsend, andThen_done, hrecv, andThen_done]

theorem checkRead_mismatch {length : Byte} {r : Bytes} (h : (r.drop 8).length ≠ length.toNat) (t : State) :
    checkRead length r t = .raised (report .lengthMismatch length.toNat (r.drop 8).length) t :=
  if_pos h

theorem checkRead_match {length : Byte} {r : Bytes} (h : (r.drop 8).length = length.toNat) (t : State) :
    checkRead length r t = .done (r.drop 8) t :=
  if_neg (not_not.mpr h)

/-- Settles O50. -/
theorem readBlockReturnsData : Obligations.ReadBlockReturnsData := by
  intro s offset length r f0 f1 hb hx hlen
  have hbody := readBlockBody_of_exchange hx
  rw [checkRead_match hlen, addOff_done] at hbody
  exact exec_returns rfl hb rfl (congrArg (result .bytes) hbody)

/-- Settles O51. -/
theorem readBlockRejectsLength : Obligations.ReadBlockRejectsLength := by
  intro s offset length r f0 f1 hb hx hlen
  have hbody := readBlockBody_of_exchange hx
  rw [checkRead_mismatch hlen, addOff_raised] at hbody
  exact exec_raises (i := .readBlock offset length) rfl hb rfl (congrArg (result .bytes) hbody)

/-- Settles O52: a reply body has at most 255 bytes, so at most 247 from position 8 on. -/
theorem readBlockOver247NeverReturns : Obligations.ReadBlockOver247NeverReturns := by
  intro s offset length t hb hlong h
  have hbody : ∃ e v, readBlockBody Config.params offset length s = .raised e v := by
    unfold readBlockBody
    rcases exchange_cases Config.params (readBody Config.params offset length) (checkRead length) s with
      ⟨e, v, hx, -⟩ | ⟨r, v, hx, hr, -, -⟩
    · exact ⟨_, v, congrArg (addOff offset) hx⟩
    · have hlen : (r.drop 8).length ≠ length.toNat := by
        rw [List.length_drop]
        omega
      rw [checkRead_mismatch hlen] at hx
      exact ⟨_, v, congrArg (addOff offset) hx⟩
  obtain ⟨e, v, hbody⟩ := hbody
  have hexec := exec_raises (i := .readBlock offset length) rfl hb rfl (congrArg (result .bytes) hbody)
  cases hexec.symm.trans h
  rfl

/-! ### WRITE_BLOCK -/

/-- R145: WRITE_BLOCK after an exchange is its check of the acknowledgement. -/
theorem writeBlockBody_of_exchange {data : Bytes} {offset : Word} {r : Bytes} {f0 f1 : Byte} {s : State}
    (h : Exchange (writeCommand data offset) r f0 f1 s) :
    writeBlockBody Config.params data offset s =
      addOff offset (checkAck Config.params offset r (afterExchange (writeCommand data offset) r f0 f1 s)) := by
  obtain ⟨hsend, hrecv⟩ := exchange_ok h
  rw [writeBlockBody, writeBody_eq, hsend, andThen_done, hrecv, andThen_done]

/-- R145: the three checks of an acknowledgement of at least six bytes. -/
theorem checkAck_cons (offset : Word) (r0 r1 r2 r3 r4 r5 : Byte) (tail : Bytes) (t : State) :
    checkAck Config.params offset ([r0, r1, r2, r3, r4, r5] ++ tail) t =
      if r0 ≠ Config.ackWrite then .raised (report .badAckOpcode Config.ackWrite.toNat r0.toNat) t
      else if r4 ≠ lo8 offset ∨ r5 ≠ hi8 offset then
        .raised (report .badAckOffset offset.toNat (ofLe16 r4 r5).toNat) t
      else .done () t := by
  have hlong : ¬([r0, r1, r2, r3, r4, r5] ++ tail).length < 6 := by simp
  rw [checkAck, if_neg hlong]
  rfl

theorem ofLe16_toNat (lo hi : Byte) : (ofLe16 lo hi).toNat = lo.toNat + 256 * hi.toNat := by
  have hlt := lo.isLt
  rw [ofLe16, BitVec.toNat_append, ← Nat.shiftLeft_add_eq_or_of_lt hlt, Nat.shiftLeft_eq]
  omega

section WriteBlock

variable {s : State} {data r : Bytes} {offset : Word} {f0 f1 : Byte} (hb : s.busy = false) (hl : data.length ≤ 243)
  (hx : Exchange (writeCommand data offset) r f0 f1 s)

include hb hl hx

theorem exec_writeBlock_returns
    (h : checkAck Config.params offset r (afterExchange (writeCommand data offset) r f0 f1 s) =
      .done () (afterExchange (writeCommand data offset) r f0 f1 s)) :
    exec (.writeBlock data offset) s =
      .next (succeeded .none (afterExchange (writeCommand data offset) r f0 f1 s)) := by
  have hbody := writeBlockBody_of_exchange hx
  rw [h, addOff_done] at hbody
  exact exec_returns rfl hb ((writeDataFits_iff data).mpr hl) (congrArg (result fun _ => .none) hbody)

theorem exec_writeBlock_raises {sub : ErrSub} {exp act : Nat}
    (h : checkAck Config.params offset r (afterExchange (writeCommand data offset) r f0 f1 s) =
      .raised (report sub exp act) (afterExchange (writeCommand data offset) r f0 f1 s)) :
    exec (.writeBlock data offset) s =
      .next (failed (classOfSub sub) sub exp act offset (afterExchange (writeCommand data offset) r f0 f1 s)) := by
  have hbody := writeBlockBody_of_exchange hx
  rw [h, addOff_raised] at hbody
  exact exec_raises (i := .writeBlock data offset) rfl hb ((writeDataFits_iff data).mpr hl)
    (congrArg (result fun _ => .none) hbody)

end WriteBlock

/-- Settles O53. -/
theorem writeBlockAccepted : Obligations.WriteBlockAccepted := by
  intro s data offset m1 m2 m3 tail f0 f1 hb hl hx
  refine exec_writeBlock_returns hb hl hx ?_
  rw [checkAck_cons, if_neg (by simp), if_neg (by simp)]

/-- Settles O54: the three checks in the order of R145. -/
theorem writeBlockRejectsAck : Obligations.WriteBlockRejectsAck := by
  refine ⟨fun s data offset r f0 f1 hb hl hx hshort => ?_,
    fun s data offset r0 r1 r2 r3 r4 r5 tail f0 f1 hb hl hx hop => ?_,
    fun s data offset r1 r2 r3 r4 r5 tail f0 f1 hb hl hx hoff => ?_⟩
  · exact exec_writeBlock_raises (sub := .shortAck) hb hl hx (by rw [checkAck, if_pos hshort])
  · exact exec_writeBlock_raises (sub := .badAckOpcode) hb hl hx (by rw [checkAck_cons, if_pos hop])
  · refine exec_writeBlock_raises (sub := .badAckOffset) hb hl hx ?_
    rw [checkAck_cons, if_neg (by simp), if_pos (not_and_or.mp hoff), ofLe16_toNat]

/-! ### Errors of SEND and RECV in a composite -/

/-- The report of an error with the offset added, in the state that error entry leaves (R148). -/
def withOffset (off : Word) (t : State) : State := { t with errinfo := { t.errinfo with off := off } }

theorem raiseOp_withOff (e : Raise) (off : Word) (s : State) :
    raiseOp (e.withOff off) s = withOffset off (raiseOp e s) := rfl

section Composite

variable {α : Type} {body : Bytes} {check : Bytes → State → Ran α} {s : State} {e : Raise} {v : State}

theorem exchange_of_send_raised (h : sendBody Config.params body s = .raised e v) :
    (andThen (sendBody Config.params body s) fun _ s => andThen (recvBody Config.params s) fun r s => check r s) =
      .raised e v := by
  rw [h, andThen_raised]

theorem exchange_of_recv_raised (ha : SendAccepted body s)
    (h : recvBody Config.params (afterSend body s) = .raised e v) :
    (andThen (sendBody Config.params body s) fun _ s => andThen (recvBody Config.params s) fun r s => check r s) =
      .raised e v := by
  rw [sendBody_ok ha, andThen_done, h, andThen_raised]

end Composite

/-- R148: READ_BLOCK whose exchange raises. -/
theorem exec_readBlock_of_raised {offset : Word} {length : Byte} {s v : State} {e : Raise} (hb : s.busy = false)
    (h : (andThen (sendBody Config.params (readCommand offset length) s) fun _ s =>
      andThen (recvBody Config.params s) fun r s => checkRead length r s) = .raised e v) :
    exec (.readBlock offset length) s = .next (withOffset offset (raiseOp e v)) := by
  rw [← readBody_eq] at h
  have hbody : readBlockBody Config.params offset length s = .raised (e.withOff offset) v := congrArg (addOff offset) h
  rw [← raiseOp_withOff]
  exact exec_raises rfl hb rfl (congrArg (result .bytes) hbody)

/-- R148: WRITE_BLOCK whose exchange raises. -/
theorem exec_writeBlock_of_raised {data : Bytes} {offset : Word} {s v : State} {e : Raise} (hb : s.busy = false)
    (hl : data.length ≤ 243)
    (h : (andThen (sendBody Config.params (writeCommand data offset) s) fun _ s =>
      andThen (recvBody Config.params s) fun r s => checkAck Config.params offset r s) = .raised e v) :
    exec (.writeBlock data offset) s = .next (withOffset offset (raiseOp e v)) := by
  rw [← writeBody_eq] at h
  have hbody : writeBlockBody Config.params data offset s = .raised (e.withOff offset) v := congrArg (addOff offset) h
  rw [← raiseOp_withOff]
  exact exec_raises (i := .writeBlock data offset) rfl hb ((writeDataFits_iff data).mpr hl)
    (congrArg (result fun _ => .none) hbody)

/-- Settles O55: what SEND or RECV raises is what the composite raises, in the same state, with its offset. -/
theorem compositesPassErrorsWithOffset : Obligations.CompositesPassErrorsWithOffset := by
  have hreadLen (offset : Word) (length : Byte) : (readCommand offset length).length ≤ 255 :=
    SendsBody.length_le (.bodyRead offset length) rfl
  refine ⟨fun s offset length t hb h hraised => ?_, fun s offset length t hb ha h hraised => ?_,
    fun s data offset t hb hl h hraised => ?_, fun s data offset t hb hl ha h hraised => ?_⟩
  · obtain ⟨e, v, hsend, rfl⟩ := sendBody_raised_of_exec hb (hreadLen offset length) h hraised
    exact exec_readBlock_of_raised hb (exchange_of_send_raised hsend)
  · obtain ⟨e, v, hrecv, rfl⟩ := recvBody_raised_of_exec (s := afterSend _ s) hb h hraised
    exact exec_readBlock_of_raised hb (exchange_of_recv_raised ha hrecv)
  · have hlen := SendsBody.length_le (.bodyWrite data offset) ((writeDataFits_iff data).mpr hl)
    obtain ⟨e, v, hsend, rfl⟩ := sendBody_raised_of_exec hb hlen h hraised
    exact exec_writeBlock_of_raised hb hl (exchange_of_send_raised hsend)
  · obtain ⟨e, v, hrecv, rfl⟩ := recvBody_raised_of_exec (s := afterSend _ s) hb h hraised
    exact exec_writeBlock_of_raised hb hl (exchange_of_recv_raised ha hrecv)

end Sys2Proof.Proofs
